-- ==== Sys2Proof/Word.lean ====
section
/-! DEFINITION. The bit vectors of the SingleWireBus block: one wire bit, one byte, one 16-bit word (R7). -/

namespace Sys2Proof

/-- One bit: a wire bit, an operand bit, a sampled level (R7). -/
abbrev Bit := BitVec 1

/-- One byte: data, payload, `ERR`, the CRC accumulator (R7). -/
abbrev Byte := BitVec 8

/-- A 16-bit word: a command word or a response word (R7). -/
abbrev Word := BitVec 16

end Sys2Proof
end

