-- ==== Sys2Proof/Syntax.lean ====
section
/-! DEFINITION. The commands of the block: what is handed over (`Command`, R50) and what it means (`Instr`, one
constructor per row of the opcode map of R54, with the operands of R53). -/

namespace Sys2Proof

/-- A command as it is handed to the block, whole: the command word and the payload bytes (R50). -/
structure Command where
  word : Word
  payload : List Byte
deriving DecidableEq, Repr

/-- The twelve commands of R54 with their operands as R53 assembles them. -/
inductive Instr where
  /-- ACQUIRE, R72. -/
  | acquire
  /-- RELEASE, R73. -/
  | release
  /-- READ_ERR, R74. -/
  | readErr
  /-- RESET, R78: the reset pulse on the wire, not the block reset of R118. -/
  | reset
  /-- WRITE_BIT, R79: `bit` = `OPND[0]`. -/
  | writeBit (bit : Bit)
  /-- READ_BIT, R82. -/
  | readBit
  /-- WRITE_BYTE, R80: `byte` = `OPND`. -/
  | writeByte (byte : Byte)
  /-- READ_BYTE, R83. -/
  | readByte
  /-- CRC8_STEP, R92: `data` = `OPND`, `acc` = payload[0]. -/
  | crc8Step (data acc : Byte)
  /-- CRC8_COMPUTE, R93: `bytes` = the whole payload. -/
  | crc8Compute (bytes : List Byte)
  /-- CRC8_CHECK_ROM, R94: `rom[k]` = payload[k], laid out as R89 says. -/
  | crc8CheckRom (rom : List Byte)
  /-- CRC8_CHECK_SCRATCHPAD, R95: `sp[k]` = payload[k], laid out as R90 says. -/
  | crc8CheckScratchpad (sp : List Byte)
deriving DecidableEq, Repr

end Sys2Proof
end

