-- ==== Sys2Proof/WellFormed.lean ====
section
/-! DEFINITION. Which terms of `Instr` stand for a command: the lengths of the byte lists that R52 fixes. -/

namespace Sys2Proof

/-- The list operands have the lengths of their formats (R52): at most 255 bytes for format `L`, 8 for `P8`, 9 for
`P9`. Every other operand is well formed by its type. -/
def Instr.wellFormed : Instr → Bool
  | .acquire => true
  | .release => true
  | .readErr => true
  | .reset => true
  | .writeBit _ => true
  | .readBit => true
  | .writeByte _ => true
  | .readByte => true
  | .crc8Step _ _ => true
  | .crc8Compute bytes => decide (bytes.length ≤ 255)
  | .crc8CheckRom rom => decide (rom.length = 8)
  | .crc8CheckScratchpad sp => decide (sp.length = 9)

end Sys2Proof
end

