-- ==== Sys2Proof/Decode.lean ====
section
/-! DEFINITION. The decoder of 30_encoding.md, total on every word and payload (R61), and the encoder written from the
same tables. -/

namespace Sys2Proof

/-- `OPC`, bits 15:8 of the command word (R50). -/
def opcOf (w : Word) : Byte := w.extractLsb' 8 8

/-- `OPND`, bits 7:0 of the command word (R50). -/
def opndOf (w : Word) : Byte := w.extractLsb' 0 8

/-- The twelve opcodes of R54. -/
inductive Opcode where
  | acquire | release | readErr
  | reset | writeBit | readBit | writeByte | readByte
  | crc8Step | crc8Compute | crc8CheckRom | crc8CheckScratchpad
deriving DecidableEq, Repr

/-- The opcode map of R54. -/
def Opcode.code : Opcode → Byte
  | .acquire => 0x01
  | .release => 0x02
  | .readErr => 0x03
  | .reset => 0x10
  | .writeBit => 0x11
  | .readBit => 0x12
  | .writeByte => 0x13
  | .readByte => 0x14
  | .crc8Step => 0x20
  | .crc8Compute => 0x21
  | .crc8CheckRom => 0x22
  | .crc8CheckScratchpad => 0x23

/-- Every opcode, in the order of R54. -/
def Opcode.all : List Opcode :=
  [.acquire, .release, .readErr, .reset, .writeBit, .readBit, .writeByte, .readByte,
   .crc8Step, .crc8Compute, .crc8CheckRom, .crc8CheckScratchpad]

/-- The opcode an `OPC` value names, or none: then it is illegal (R59). -/
def Opcode.ofByte (b : Byte) : Option Opcode := Opcode.all.find? (fun o => o.code == b)

/-- `len(OPC, OPND)`, the payload length of R55: 0 for every opcode not named, the illegal ones included. -/
def payloadLen (opc opnd : Byte) : Nat :=
  match Opcode.ofByte opc with
  | some .crc8Step => 1
  | some .crc8Compute => opnd.toNat
  | some .crc8CheckRom => 8
  | some .crc8CheckScratchpad => 9
  | _ => 0

/-- What the decoder says of a command. -/
inductive Decoded where
  /-- A legal command of R54. -/
  | legal (i : Instr)
  /-- An illegal opcode (R59). -/
  | illegalOpcode
  /-- A legal opcode with an illegal operand (R60). -/
  | illegalOperand
  /-- Not a command: the payload does not have `len(OPC, OPND)` bytes (R56). -/
  | payloadLength
deriving DecidableEq, Repr

/-- Formats `N`, `P8` and `P9`: legal only with `OPND` = 0x00 (R60 (a)). -/
def decodeZero (opnd : Byte) (i : Instr) : Decoded :=
  if opnd = 0 then .legal i else .illegalOperand

/-- Operand assembly by format (R52, R53, R60), for a payload of the right length. -/
def decodeOperands (o : Opcode) (opnd : Byte) (payload : List Byte) : Decoded :=
  match o with
  | .acquire => decodeZero opnd .acquire
  | .release => decodeZero opnd .release
  | .readErr => decodeZero opnd .readErr
  | .reset => decodeZero opnd .reset
  | .writeBit =>
      if opnd.extractLsb' 1 7 = 0 then .legal (.writeBit (opnd.extractLsb' 0 1)) else .illegalOperand
  | .readBit => decodeZero opnd .readBit
  | .writeByte => .legal (.writeByte opnd)
  | .readByte => decodeZero opnd .readByte
  | .crc8Step => .legal (.crc8Step opnd (payload.getD 0 0))
  | .crc8Compute => .legal (.crc8Compute payload)
  | .crc8CheckRom => decodeZero opnd (.crc8CheckRom payload)
  | .crc8CheckScratchpad => decodeZero opnd (.crc8CheckScratchpad payload)

/-- The decoder: the payload length at the boundary (R56), then the opcode, then the operand (R106). -/
def decode (c : Command) : Decoded :=
  if c.payload.length = payloadLen (opcOf c.word) (opndOf c.word) then
    match Opcode.ofByte (opcOf c.word) with
    | none => .illegalOpcode
    | some o => decodeOperands o (opndOf c.word) c.payload
  else .payloadLength

/-- The opcode of a command (R54). -/
def Instr.opcode : Instr → Opcode
  | .acquire => .acquire
  | .release => .release
  | .readErr => .readErr
  | .reset => .reset
  | .writeBit _ => .writeBit
  | .readBit => .readBit
  | .writeByte _ => .writeByte
  | .readByte => .readByte
  | .crc8Step _ _ => .crc8Step
  | .crc8Compute _ => .crc8Compute
  | .crc8CheckRom _ => .crc8CheckRom
  | .crc8CheckScratchpad _ => .crc8CheckScratchpad

/-- The operand byte of a command (R52, R62). -/
def Instr.opnd : Instr → Byte
  | .acquire => 0
  | .release => 0
  | .readErr => 0
  | .reset => 0
  | .writeBit bit => bit.setWidth 8
  | .readBit => 0
  | .writeByte byte => byte
  | .readByte => 0
  | .crc8Step data _ => data
  | .crc8Compute bytes => BitVec.ofNat 8 bytes.length
  | .crc8CheckRom _ => 0
  | .crc8CheckScratchpad _ => 0

/-- The payload of a command (R52, R62). -/
def Instr.payload : Instr → List Byte
  | .acquire => []
  | .release => []
  | .readErr => []
  | .reset => []
  | .writeBit _ => []
  | .readBit => []
  | .writeByte _ => []
  | .readByte => []
  | .crc8Step _ acc => [acc]
  | .crc8Compute bytes => bytes
  | .crc8CheckRom rom => rom
  | .crc8CheckScratchpad sp => sp

/-- The command word of a command: `OPC` above `OPND` (R50). -/
def Instr.word (i : Instr) : Word := i.opcode.code ++ i.opnd

/-- The encoder: the command word and the payload (R62). -/
def encode (i : Instr) : Command := ⟨i.word, i.payload⟩

/-- The byte stream of a command: `OPC`, `OPND`, then the payload in index order (R51). -/
def Command.toBytes (c : Command) : List Byte := opcOf c.word :: opndOf c.word :: c.payload

/-- Reads one command from a byte stream (R51) and leaves the bytes after it; none where there is no whole command
word. A stream that ends inside the payload gives `Decoded.payloadLength` (R56). -/
def decodeBytes : List Byte → Option (Decoded × List Byte)
  | opc :: opnd :: rest =>
      some (decode ⟨opc ++ opnd, rest.take (payloadLen opc opnd)⟩, rest.drop (payloadLen opc opnd))
  | [_] => none
  | [] => none

/-- The command that `nbits` bits `w` stand for, numbered as opcode_table.json numbers them: the command word is bits
15:0, payload byte `k` is bits `16 + 8k + 7 : 16 + 8k`, and every bit from `nbits` up is 0. -/
def commandOfTable (nbits w : Nat) : Command :=
  let bits := w % 2 ^ nbits
  let word : Word := BitVec.ofNat 16 bits
  ⟨word, (List.range (payloadLen (opcOf word) (opndOf word))).map
    (fun k => BitVec.ofNat 8 (bits / 2 ^ (16 + 8 * k)))⟩

/-- What the decoder reads from such a command: an instruction, or none where it is no legal command. -/
def decodeTableWord (nbits w : Nat) : Option Instr :=
  match decode (commandOfTable nbits w) with
  | .legal i => some i
  | .illegalOpcode => none
  | .illegalOperand => none
  | .payloadLength => none

end Sys2Proof
end

