-- ==== Sys2Proof/Config.lean ====
section
/-! DEFINITION. The parameters of the block (R6, R125) and the free values of the environment. -/

namespace Sys2Proof

/-- The configuration parameters of R6. They are arguments of the model: a state carries one `Config`, which no step
writes, so that a statement about every state is a statement about every configuration. Times are whole microseconds
(DESIGN CHOICE, log 7); no step computes with one (R6, R37). -/
structure Config where
  /-- `N_AGENTS`: the number of caller agents. -/
  nAgents : Nat
  /-- `W_CNT`: the width of `COUNT` in bits. -/
  wCnt : Nat
  /-- `N_PP`: the presence poll budget, in samples. -/
  nPp : Nat
  /-- `T_RST_LOW`: the time RESET holds the line low. -/
  tRstLow : Nat
  /-- `T_RST_SETTLE`: the wait after release before the first presence sample. -/
  tRstSettle : Nat
  /-- `T_PP`: the delay between presence samples. -/
  tPp : Nat
  /-- `T_WH`: the delay between samples while waiting for the end of the presence pulse (log 21). -/
  tWh : Nat
  /-- `T_SLOT`: the write time slot, and the low time of a write-0. -/
  tSlot : Nat
  /-- `T_W1_LOW`: the low time of a write-1. -/
  tW1Low : Nat
  /-- `T_RD_LOW`: the low pulse that opens a read slot. -/
  tRdLow : Nat
  /-- `T_RD_REST`: the remainder of a read slot after the low pulse. -/
  tRdRest : Nat
  /-- `T_RD_SAMPLE`: the delay from release to the sample in a read slot. -/
  tRdSample : Nat
  /-- `T_IBD`: the inter-bit delay of a byte command. -/
  tIbd : Nat
  /-- `CRC8_TABLE`: the 256 entries of the CRC8 lookup table (R29), as the 16 rows of 16 in which R30 lays it out. -/
  crcTable : List (List Byte)
deriving DecidableEq, Repr

/-- `T[i]`: entry `i` of `CRC8_TABLE` (R9, R29): row `r`, column `c` holds `T[16·r + c]` (R30). -/
def Config.crcEntry (c : Config) (i : Byte) : Byte := (c.crcTable.getD (i.toNat / 16) []).getD (i.toNat % 16) 0

/-- `2^W_CNT − 1`: the top value of `COUNT` (R17). -/
def Config.maxCount (c : Config) : Nat := 2 ^ c.wCnt - 1

/-- The constraints on the configuration. R125: every `T_...` is greater than 0, but `T_RD_SAMPLE`, which is at least 0;
`N_PP` ≥ 1; `W_CNT` ≥ 1; `T_W1_LOW` < `T_SLOT`; `T_RD_SAMPLE` < `T_RD_REST`. R6: `N_AGENTS` ≥ 1. R29: the table has 256
entries and `T[0]` = 0x00. -/
def Config.admitted (c : Config) : Bool :=
  [decide (0 < c.nAgents), decide (0 < c.wCnt), decide (0 < c.nPp),
   decide (0 < c.tRstLow), decide (0 < c.tRstSettle), decide (0 < c.tPp), decide (0 < c.tWh),
   decide (0 < c.tSlot), decide (0 < c.tW1Low), decide (0 < c.tRdLow), decide (0 < c.tRdRest),
   decide (0 < c.tIbd), decide (c.tW1Low < c.tSlot), decide (c.tRdSample < c.tRdRest),
   decide (c.crcTable.length = 16), c.crcTable.all (fun row => decide (row.length = 16)),
   decide (c.crcEntry 0 = 0)].all id

/-- Rows 0x to 3x of the default table of R30. -/
def Config.crcRows0 : List (List Byte) :=
  [[0x00, 0x5E, 0xBC, 0xE2, 0x61, 0x3F, 0xDD, 0x83, 0xC2, 0x9C, 0x7E, 0x20, 0xA3, 0xFD, 0x1F, 0x41],
   [0x9D, 0xC3, 0x21, 0x7F, 0xFC, 0xA2, 0x40, 0x1E, 0x5F, 0x01, 0xE3, 0xBD, 0x3E, 0x60, 0x82, 0xDC],
   [0x23, 0x7D, 0x9F, 0xC1, 0x42, 0x1C, 0xFE, 0xA0, 0xE1, 0xBF, 0x5D, 0x03, 0x80, 0xDE, 0x3C, 0x62],
   [0xBE, 0xE0, 0x02, 0x5C, 0xDF, 0x81, 0x63, 0x3D, 0x7C, 0x22, 0xC0, 0x9E, 0x1D, 0x43, 0xA1, 0xFF]]

/-- Rows 4x to 7x of the default table of R30. -/
def Config.crcRows1 : List (List Byte) :=
  [[0x46, 0x18, 0xFA, 0xA4, 0x27, 0x79, 0x9B, 0xC5, 0x84, 0xDA, 0x38, 0x66, 0xE5, 0xBB, 0x59, 0x07],
   [0xDB, 0x85, 0x67, 0x39, 0xBA, 0xE4, 0x06, 0x58, 0x19, 0x47, 0xA5, 0xFB, 0x78, 0x26, 0xC4, 0x9A],
   [0x65, 0x3B, 0xD9, 0x87, 0x04, 0x5A, 0xB8, 0xE6, 0xA7, 0xF9, 0x1B, 0x45, 0xC6, 0x98, 0x7A, 0x24],
   [0xF8, 0xA6, 0x44, 0x1A, 0x99, 0xC7, 0x25, 0x7B, 0x3A, 0x64, 0x86, 0xD8, 0x5B, 0x05, 0xE7, 0xB9]]

/-- Rows 8x to Bx of the default table of R30. -/
def Config.crcRows2 : List (List Byte) :=
  [[0x8C, 0xD2, 0x30, 0x6E, 0xED, 0xB3, 0x51, 0x0F, 0x4E, 0x10, 0xF2, 0xAC, 0x2F, 0x71, 0x93, 0xCD],
   [0x11, 0x4F, 0xAD, 0xF3, 0x70, 0x2E, 0xCC, 0x92, 0xD3, 0x8D, 0x6F, 0x31, 0xB2, 0xEC, 0x0E, 0x50],
   [0xAF, 0xF1, 0x13, 0x4D, 0xCE, 0x90, 0x72, 0x2C, 0x6D, 0x33, 0xD1, 0x8F, 0x0C, 0x52, 0xB0, 0xEE],
   [0x32, 0x6C, 0x8E, 0xD0, 0x53, 0x0D, 0xEF, 0xB1, 0xF0, 0xAE, 0x4C, 0x12, 0x91, 0xCF, 0x2D, 0x73]]

/-- Rows Cx to Fx of the default table of R30. -/
def Config.crcRows3 : List (List Byte) :=
  [[0xCA, 0x94, 0x76, 0x28, 0xAB, 0xF5, 0x17, 0x49, 0x08, 0x56, 0xB4, 0xEA, 0x69, 0x37, 0xD5, 0x8B],
   [0x57, 0x09, 0xEB, 0xB5, 0x36, 0x68, 0x8A, 0xD4, 0x95, 0xCB, 0x29, 0x77, 0xF4, 0xAA, 0x48, 0x16],
   [0xE9, 0xB7, 0x55, 0x0B, 0x88, 0xD6, 0x34, 0x6A, 0x2B, 0x75, 0x97, 0xC9, 0x4A, 0x14, 0xF6, 0xA8],
   [0x74, 0x2A, 0xC8, 0x96, 0x15, 0x4B, 0xA9, 0xF7, 0xB6, 0xE8, 0x0A, 0x54, 0xD7, 0x89, 0x6B, 0x35]]

/-- The default `CRC8_TABLE` of R30 (the spec marks it as general knowledge, G1; PRESUMED, log 8). -/
def Config.defaultCrcTable : List (List Byte) :=
  Config.crcRows0 ++ Config.crcRows1 ++ Config.crcRows2 ++ Config.crcRows3

/-- The configuration of `State.reset`: the nominal values and defaults of R6; for the OPEN parameters and the ranges,
values the model names (DESIGN CHOICE, log 7). -/
def Config.default : Config where
  nAgents := 1
  wCnt := 32
  nPp := 100
  tRstLow := 480
  tRstSettle := 50
  tPp := 5
  tWh := 5
  tSlot := 80
  tW1Low := 1
  tRdLow := 3
  tRdRest := 60
  tRdSample := 0
  tIbd := 1
  crcTable := Config.defaultCrcTable

/-- FREE VALUE (R35, U8; log 5). The level the environment gives to the `n`-th sample of a released line for which no
level was supplied in `State.draws`. Nothing constrains it. -/
opaque Config.freeLevel : Nat → Bit

/-- FREE VALUE (R10, R111, U15; log 3). The choice of the agent that moves at the `n`-th turn that was not supplied in
`State.turns`. Nothing constrains it. -/
opaque Config.freeTurn : Nat → Nat

end Sys2Proof
end

