-- ==== Sys2Proof/Machine/State.lean ====
section
/-! DEFINITION. The state of the block as plain data: everything 10_state.md gives it, the position of every agent in
its command, the model-only records, and the inputs from outside that the step reads. -/

namespace Sys2Proof.Machine

/-- The `STATUS` values of a response (R57). -/
inductive Status where
  | ok | illegalOpcode | illegalOperand | guardUnderflow | guardOverflow
deriving DecidableEq, Repr

/-- The closed list of fault kinds of R102. -/
inductive FaultKind where
  | illegalOpcode | illegalOperand | guardUnderflow | guardOverflow | guardContention
deriving DecidableEq, Repr

/-- `LINE_DRIVE` (R20): 0 = released ("input-with-pull-up"), 1 = driven ("output-low"). -/
inductive Drive where
  | released | driven
deriving DecidableEq, Repr

/-- The names a `Delay` event can carry (R34, R37); `slotRest` is `T_SLOT − T_W1_LOW` (R76) and `rdAfter` is
`T_RD_REST − T_RD_SAMPLE` (R77). -/
inductive DelayName where
  | rstLow | rstSettle | pp | wh | slot | w1Low | slotRest | rdLow | rdSample | rdAfter | ibd
deriving DecidableEq, Repr

/-- The events of R26. -/
inductive EventKind where
  /-- `DriveLow`. -/
  | driveLow
  /-- `Release`, the line event (C5). -/
  | lineRelease
  /-- `Delay(name)`. -/
  | delay (name : DelayName)
  /-- `Sample(level)`. -/
  | sample (level : Bit)
  /-- `Inc(old)`. -/
  | inc (old : Nat)
  /-- `Inc(overflow)`. -/
  | incOverflow
  /-- `Enter`. -/
  | enter
  /-- `Dec(new)`. -/
  | dec (new : Nat)
  /-- `Dec(underflow)`. -/
  | decUnderflow
  /-- `Exit`. -/
  | exit
  /-- `Respond(status, value)`. -/
  | respond (status : Status) (value : Byte)
  /-- `Fault(kind)`, when a stopping fault is raised. -/
  | fault (kind : FaultKind)
deriving DecidableEq, Repr

/-- One event of `HIST` with the site of its command: the agent and the position in that agent's issue order (R26, R64). -/
structure Event where
  agent : Nat
  seq : Nat
  kind : EventKind
deriving DecidableEq, Repr

/-- One record of `FAULT`: the agent, the command (its site and its word) and the kind (R27, R100; log 10). -/
structure FaultRecord where
  agent : Nat
  seq : Nat
  word : Word
  kind : FaultKind
deriving DecidableEq, Repr

/-- The next step inside `WriteSlot` (R76). -/
inductive WriteSlotPc where
  | low | hold | up | rest
deriving DecidableEq, Repr

/-- The next step inside `ReadSlot` (R77). -/
inductive ReadSlotPc where
  | low | hold | up | wait | sample | rest
deriving DecidableEq, Repr

/-- The next step inside one bit of a byte command (R80, R83): the bit operation's own nested token around a slot, then
the inter-bit delay. -/
inductive NestedPc (σ : Type) where
  | inc | enter | slot (p : σ) | dec | exit | ibd
deriving DecidableEq, Repr

/-- The next step inside a guarded bracket (R75) around a body; from `dec` on, the pending result is `(s2, v)`. -/
inductive BracketPc (β : Type) where
  | inc | enter | body (p : β)
  | dec (status : Status) (value : Byte)
  | exit (status : Status) (value : Byte)
  | respond (status : Status) (value : Byte)
deriving DecidableEq, Repr

/-- The next step inside ACQUIRE (R72). -/
inductive AcquirePc where
  | inc | enter | respond (status : Status)
deriving DecidableEq, Repr

/-- The next step inside RELEASE (R73). -/
inductive ReleasePc where
  | dec | exit | respond (status : Status)
deriving DecidableEq, Repr

/-- The next step inside RESET's body (R78). The local `i` stands in the polling positions; the local `found` is 0
before `waitSample` and 1 from it on (log 20). -/
inductive ResetPc where
  | low | hold | up | settle
  | poll (i : Nat) | pollDelay (i : Nat)
  | waitSample | waitDelay
deriving DecidableEq, Repr

/-- The next step inside READ_BIT's body (R82) and the local `b`, which is 0 until it is sampled. -/
structure ReadBitPc where
  b : Bit
  pc : ReadSlotPc
deriving DecidableEq, Repr

/-- The next step inside WRITE_BYTE's body (R80) and the local `i`. -/
structure WriteBytePc where
  i : Fin 8
  pc : NestedPc WriteSlotPc
deriving DecidableEq, Repr

/-- The next step inside READ_BYTE's body (R83) and the locals `i`, `v` and `b`. -/
structure ReadBytePc where
  i : Fin 8
  v : Byte
  b : Bit
  pc : NestedPc ReadSlotPc
deriving DecidableEq, Repr

/-- A command in flight: the decoded command, its operands and the position of its next step with the locals alive
there (R13, R24). READ_ERR and the CRC commands are single atomic steps (R74, R91) and are never in flight. -/
inductive Flight where
  | acquire (pc : AcquirePc)
  | release (pc : ReleasePc)
  | reset (pc : BracketPc ResetPc)
  | writeBit (bit : Bit) (pc : BracketPc WriteSlotPc)
  | readBit (pc : BracketPc ReadBitPc)
  | writeByte (byte : Byte) (pc : BracketPc WriteBytePc)
  | readByte (pc : BracketPc ReadBytePc)
deriving DecidableEq, Repr

/-- `PHASE[a]` (R13): `IDLE`, a command in flight, or `FAULTED` (R101). -/
inductive Phase where
  | idle
  | running (f : Flight)
  | faulted
deriving DecidableEq, Repr

/-- What an agent still has to do on its own side of the port (log 12): issue a command, or the caller's unbounded loop
`POLL_BIT_UNTIL_1` (R63, R104), with a mark that says whether it has issued its first READ_BIT (log 13). -/
inductive Job where
  | command (c : Command)
  | poll (started : Bool)
deriving DecidableEq, Repr

/-- One caller agent (R11, R24): its phase; the position in its issue order of the command in flight or, while none is,
of the next one (R64; log 11); its jobs; and the response word to the command it issued last, none while that command
has not responded (R57; log 12). -/
structure Agent where
  phase : Phase
  seq : Nat
  jobs : List Job
  last : Option Word
deriving DecidableEq, Repr

/-- An agent at reset: `IDLE` (R32), with nothing to issue and nothing received (log 22). -/
def Agent.fresh : Agent := ⟨.idle, 0, [], none⟩

/-- A choice made from outside (log 3, log 14): agent `a` moves, or the host asks for a block reset (R118). -/
inductive Turn where
  | agent (a : Nat)
  | blockReset
deriving DecidableEq, Repr

/-- The state. -/
structure State where
  /-- The parameters of R6, with `CRC8_TABLE` among them; no step writes them. -/
  cfg : Config
  /-- `COUNT` (R17). -/
  count : Nat
  /-- `REGION` (R18): whether the critical region is entered. -/
  region : Bool
  /-- `LINE_DRIVE` (R20). -/
  lineDrive : Drive
  /-- `ERR` (R21). -/
  err : Byte
  /-- The caller agents, agent `a` at index `a`: `PHASE[a]` and the rest of R24. -/
  agents : List Agent
  /-- `OWNER` (R25), model-only. -/
  owner : Option Nat
  /-- `HIST` (R26), model-only, oldest event first. -/
  hist : List Event
  /-- `FAULT` (R27), model-only. -/
  faults : List FaultRecord
  /-- The model's own: the agent whose step `exec` takes (log 3). -/
  active : Nat
  /-- The model's own: the turns chosen from outside, the next one first (log 3). -/
  turns : List Turn
  /-- The model's own: how many free turns have been used (log 3). -/
  turnCount : Nat
  /-- The model's own: the levels given from outside to samples of a released line, the next one first (log 5). -/
  draws : List Bit
  /-- The model's own: how many free levels have been used (log 5). -/
  drawCount : Nat
deriving DecidableEq, Repr

/-- Why the model stops without a refusal. `step` raises none of these; they say what `exec` answers when it is asked
for a step that no agent has. -/
inductive Fault where
  /-- Raised by `runCommand`: `active` names no agent (R11). Safe: no step of the block is lost. -/
  | noSuchAgent
  /-- Raised by `runCommand`: the active agent has another command in flight, and an agent whose phase is not `IDLE`
  issues no new command (R14). Safe: no step of the block is lost. -/
  | commandInFlight
  /-- Raised by `runCommand`: the active agent is `FAULTED` and has no further step (R101). Safe: no step is lost. -/
  | agentFaulted
deriving DecidableEq, Repr

/-- Why the model refuses before the block sees anything (R105). -/
inductive Refusal where
  /-- Raised by an arm of `exec` for an instruction without a meaning: no arm is left so. Safe: the run stops. -/
  | notModelled (mnemonic : String)
  /-- "payload length" (R56, R105 (a)). Raised by `fetch` for a command whose payload does not have the length its
  word gives, and by a CRC command's meaning for a list of a length no command has. Safe: the block never sees it. -/
  | payloadLength
  /-- R105 (b), R119. Raised by `fetch` for a block reset while an agent has a command in flight. Safe: never entered. -/
  | resetInFlight
  /-- R105 (c), R125. Raised by `fetch` for a configuration that breaks a constraint. Safe: never entered. -/
  | configuration
deriving DecidableEq, Repr

/-- The state after a block reset with configuration `c` (R32), with no input from outside placed (log 22). -/
def State.resetWith (c : Config) : State where
  cfg := c
  count := 0
  region := false
  lineDrive := .released
  err := 0x00
  agents := List.replicate c.nAgents Agent.fresh
  owner := none
  hist := []
  faults := []
  active := 0
  turns := []
  turnCount := 0
  draws := []
  drawCount := 0

/-- The state after a block reset with the default configuration (R6, R32; log 7). -/
def State.reset : State := State.resetWith Config.default

end Sys2Proof.Machine
end

