-- ==== Sys2Proof/Machine/Flags.lean ====
section
/-! DEFINITION. The block has no status flags and no condition codes (R15). What it has in their place is computed
here: the `STATUS` code of a response, the `ERR` bit and the fault kind of a status, and the response word. -/

namespace Sys2Proof.Machine

/-- The `STATUS` byte of a status (R57). -/
def Status.code : Status → Byte
  | .ok => 0x00
  | .illegalOpcode => 0x01
  | .illegalOperand => 0x02
  | .guardUnderflow => 0x03
  | .guardOverflow => 0x04

/-- The sticky `ERR` bit of a status error (R21, R99); `OK` sets none. -/
def Status.errBit : Status → Byte
  | .ok => 0x00
  | .illegalOpcode => 0x01
  | .illegalOperand => 0x02
  | .guardUnderflow => 0x04
  | .guardOverflow => 0x08

/-- The kind of fault a status error is recorded as (R100, R102); `OK` is none. -/
def Status.faultKind : Status → Option FaultKind
  | .ok => none
  | .illegalOpcode => some .illegalOpcode
  | .illegalOperand => some .illegalOperand
  | .guardUnderflow => some .guardUnderflow
  | .guardOverflow => some .guardOverflow

/-- The code of a fault kind (R102). -/
def FaultKind.code : FaultKind → Byte
  | .illegalOpcode => 0x01
  | .illegalOperand => 0x02
  | .guardUnderflow => 0x03
  | .guardOverflow => 0x04
  | .guardContention => 0x80

/-- The response word `STATUS`, `VALUE` (R57). -/
def responseWord (status : Status) (value : Byte) : Word := status.code ++ value

/-- The byte stream of a response: `STATUS`, then `VALUE` (R51). -/
def responseBytes (w : Word) : List Byte := [w.extractLsb' 8 8, w.extractLsb' 0 8]

/-- `ERR` after a status error: its bit set, every other bit kept (R21, R22). -/
def State.setErr (s : State) (status : Status) : State := { s with err := s.err ||| status.errBit }

end Sys2Proof.Machine
end

