-- ==== Sys2Proof/Machine/Operands.lean ====
section
/-! DEFINITION. Operand forms: the bits of an operand byte in wire order, and the byte layouts of the two CRC checks. -/

namespace Sys2Proof.Machine

/-- `byte[i]`: the bit of `byte` that goes out in time slot `i`, bit 0 first (R38, R80). -/
def bitAt (byte : Byte) (i : Fin 8) : Bit := byte.extractLsb' i.val 1

/-- `zext_8(b)` (R8, R58). -/
def zext8 (b : Bit) : Byte := b.setWidth 8

/-- `v | (b << i)`: the bit of time slot `i` into bit `i` of the byte read (R38, R83). -/
def putBit (v : Byte) (b : Bit) (i : Fin 8) : Byte := v ||| (zext8 b <<< i.val)

/-- Payload byte `k` (R53); the meanings ask only for bytes the format has. -/
def payloadByte (bytes : List Byte) (k : Nat) : Byte := bytes.getD k 0

/-- The family code of a ROM code, byte 0 (R89). -/
def romFamily (rom : List Byte) : Byte := payloadByte rom 0

/-- The bytes under a ROM code's CRC: the family code, then the six serial bytes (R89, R94). -/
def romCovered (rom : List Byte) : List Byte := rom.take 7

/-- The CRC byte of a ROM code, byte 7 (R89). -/
def romCrc (rom : List Byte) : Byte := payloadByte rom 7

/-- The bytes under a scratchpad's CRC: bytes 0 to 7, the two temperature bytes, the two alarm registers, the
configuration register and three reserved bytes (R90, R95). -/
def scratchpadCovered (sp : List Byte) : List Byte := sp.take 8

/-- The CRC byte of a scratchpad, byte 8 (R90). -/
def scratchpadCrc (sp : List Byte) : Byte := payloadByte sp 8

/-- One result bit from a condition (R94, R95). -/
def flag (p : Bool) : Byte := if p then 1 else 0

end Sys2Proof.Machine
end

