-- ==== Sys2Proof/Machine/Ops.lean ====
section
/-! DEFINITION. The named operations: events, the four line primitives (R34), the guard steps (R65, R66), responding
(R57, R100), the stopping fault (R67, R101), and taking one step of a command (R10, R13). -/

namespace Sys2Proof.Machine

/-! ### Agents and events -/

/-- Changes agent `a` alone; nothing where there is no such agent. -/
def State.modifyAgent (s : State) (a : Nat) (f : Agent → Agent) : State :=
  { s with agents := s.agents.modify a f }

/-- `PHASE[a]`, or none where there is no agent `a`. -/
def State.phaseOf (s : State) (a : Nat) : Option Phase := (s.agents[a]?).map Agent.phase

/-- The position of agent `a`'s command in its issue order (R64). -/
def State.seqOf (s : State) (a : Nat) : Nat := ((s.agents[a]?).map Agent.seq).getD 0

/-- `PHASE[a] <- p` (R13). -/
def State.setPhase (s : State) (a : Nat) (p : Phase) : State :=
  s.modifyAgent a (fun ag => { ag with phase := p })

/-- Appends one event of agent `a`'s command to `HIST` (R26, R64). -/
def State.log (s : State) (a : Nat) (k : EventKind) : State :=
  { s with hist := s.hist ++ [⟨a, s.seqOf a, k⟩] }

/-- Adds a record to `FAULT` for agent `a`'s command with word `w` (R27). -/
def State.addFault (s : State) (a : Nat) (w : Word) (k : FaultKind) : State :=
  { s with faults := s.faults ++ [⟨a, s.seqOf a, w, k⟩] }

/-! ### The line primitives (R34) -/

/-- `LineDriveLow()`. -/
def State.lineDriveLow (s : State) (a : Nat) : State :=
  ({ s with lineDrive := .driven }).log a .driveLow

/-- `LineRelease()`. -/
def State.lineRelease (s : State) (a : Nat) : State :=
  ({ s with lineDrive := .released }).log a .lineRelease

/-- `Delay(T)`: no state change but its event (R37). -/
def State.delay (s : State) (a : Nat) (name : DelayName) : State := s.log a (.delay name)

/-- The level the environment gives to the next sample of a released line: the next one supplied from outside, else a
free value (R35; log 5). -/
def State.drawLevel (s : State) : Bit :=
  match s.draws with
  | l :: _ => l
  | [] => Config.freeLevel s.drawCount

/-- The state after that level is drawn. -/
def State.useDraw (s : State) : State :=
  match s.draws with
  | _ :: rest => { s with draws := rest }
  | [] => { s with drawCount := s.drawCount + 1 }

/-- The level `Sample()` returns: 0 while the block drives the line, else a draw (R35). -/
def State.level (s : State) : Bit :=
  match s.lineDrive with
  | .driven => 0
  | .released => s.drawLevel

/-- The state after `Sample()`. -/
def State.sample (s : State) (a : Nat) : State :=
  match s.lineDrive with
  | .driven => s.log a (.sample 0)
  | .released => s.useDraw.log a (.sample s.drawLevel)

/-! ### How a command ends -/

/-- The `FAULT` record of a status error (R100); none for `OK`. -/
def State.recordStatus (s : State) (a : Nat) (w : Word) (status : Status) : State :=
  match status.faultKind with
  | none => s
  | some k => s.addFault a w k

/-- What delivering a response does to its agent: `IDLE` again (R13), the next command's position (R64), the word (R57). -/
def Agent.responded (ag : Agent) (status : Status) (value : Byte) : Agent :=
  { ag with phase := .idle, seq := ag.seq + 1, last := some (responseWord status value) }

/-- `respond(status, value)`: the event, the record of a status error, and the response to the agent that issued the
command with word `w` (R9, R26, R57, R100). -/
def State.respond (s : State) (a : Nat) (w : Word) (status : Status) (value : Byte) : State :=
  ((s.log a (.respond status value)).recordStatus a w status).modifyAgent a
    (fun ag => ag.responded status value)

/-- What a stopping fault does to its agent: `FAULTED`, with no response (R101). The stopped command keeps its place in
the issue order, so the agent's next command, which only a block reset can let it issue, has the next position (R64;
log 11). -/
def Agent.stopped (ag : Agent) : Agent := { ag with phase := .faulted, seq := ag.seq + 1 }

/-- `raise Fault(GuardContention)`: nothing of the block changes; the event and the record are added, and the agent is
`FAULTED` (R67, R101). -/
def State.raiseContention (s : State) (a : Nat) (w : Word) : State :=
  ((s.log a (.fault .guardContention)).addFault a w .guardContention).modifyAgent a Agent.stopped

/-! ### The guard steps -/

/-- `OWNER ∉ {none, a}` (R67). -/
def State.contended (s : State) (a : Nat) : Bool :=
  match s.owner with
  | none => false
  | some o => o != a

/-- How an increment or a decrement step ends, with the state after it. -/
inductive GuardAnswer where
  /-- `GuardContention` was raised (R67). -/
  | contention (s : State)
  /-- The count was at its end: overflow for an increment (R68), underflow for a decrement (R69). -/
  | atEnd (s : State)
  /-- The count moved; `n` is the old count for an increment and the new count for a decrement. -/
  | counted (n : Nat) (s : State)

/-- GuardAcquire's increment step (R65). -/
def State.guardInc (s : State) (a : Nat) (w : Word) : GuardAnswer :=
  if s.contended a then .contention (s.raiseContention a w)
  else if s.count = s.cfg.maxCount then .atEnd ((s.setErr .guardOverflow).log a .incOverflow)
  else .counted s.count
    (({ s with count := s.count + 1, owner := if s.count = 0 then some a else s.owner }).log a (.inc s.count))

/-- GuardAcquire's enter step (R65). -/
def State.guardEnter (s : State) (a : Nat) : State := ({ s with region := true }).log a .enter

/-- GuardRelease's decrement step (R66). -/
def State.guardDec (s : State) (a : Nat) (w : Word) : GuardAnswer :=
  if s.contended a then .contention (s.raiseContention a w)
  else if s.count = 0 then .atEnd ((s.setErr .guardUnderflow).log a .decUnderflow)
  else .counted (s.count - 1) (({ s with count := s.count - 1 }).log a (.dec (s.count - 1)))

/-- GuardRelease's exit step (R66). -/
def State.guardExit (s : State) (a : Nat) : State :=
  ({ s with region := false, owner := none }).log a .exit

/-- The increment step of GuardAcquire at one place of a command: where the command goes on after an overflow, with the
enter step, and without it (R65). -/
def acquireStep (a : Nat) (w : Word) (onOverflow onEnter onward : Phase) (s : State) : State :=
  match s.guardInc a w with
  | .contention t => t
  | .atEnd t => t.setPhase a onOverflow
  | .counted old t => t.setPhase a (if old = 0 then onEnter else onward)

/-- The decrement step of GuardRelease at one place of a command: where the command goes on after an underflow, with the
exit step, and without it (R66). -/
def releaseStep (a : Nat) (w : Word) (onUnderflow onExit onward : Phase) (s : State) : State :=
  match s.guardDec a w with
  | .contention t => t
  | .atEnd t => t.setPhase a onUnderflow
  | .counted new t => t.setPhase a (if new = 0 then onExit else onward)

/-! ### Commands -/

/-- The command a flight belongs to, with its operands. -/
def Flight.instr : Flight → Instr
  | .acquire _ => .acquire
  | .release _ => .release
  | .reset _ => .reset
  | .writeBit bit _ => .writeBit bit
  | .readBit _ => .readBit
  | .writeByte byte _ => .writeByte byte
  | .readByte _ => .readByte

/-- The position in ACQUIRE, if that is in flight. -/
def atAcquire : Flight → Option AcquirePc
  | .acquire pc => some pc
  | _ => none

/-- The position in RELEASE, if that is in flight. -/
def atRelease : Flight → Option ReleasePc
  | .release pc => some pc
  | _ => none

/-- The position in RESET, if that is in flight. -/
def atReset : Flight → Option (BracketPc ResetPc)
  | .reset pc => some pc
  | _ => none

/-- The position in WRITE_BIT of `bit`, if that is in flight. -/
def atWriteBit (bit : Bit) : Flight → Option (BracketPc WriteSlotPc)
  | .writeBit b pc => if b = bit then some pc else none
  | _ => none

/-- The position in READ_BIT, if that is in flight. -/
def atReadBit : Flight → Option (BracketPc ReadBitPc)
  | .readBit pc => some pc
  | _ => none

/-- The position in WRITE_BYTE of `byte`, if that is in flight. -/
def atWriteByte (byte : Byte) : Flight → Option (BracketPc WriteBytePc)
  | .writeByte d pc => if d = byte then some pc else none
  | _ => none

/-- The position in READ_BYTE, if that is in flight. -/
def atReadByte : Flight → Option (BracketPc ReadBytePc)
  | .readByte pc => some pc
  | _ => none

/-- A single-step command is never in flight (R74, R91). -/
def atNone : Flight → Option Unit
  | _ => none

/-- One step of a command by the active agent (R10, R13): an `IDLE` agent issues it and takes its first step (log 1); an
agent that has it in flight takes the step its phase names. No other agent has a step of it (log 15). -/
def runCommand {π : Type} (position : Flight → Option π) (first : π) (take : Nat → π → State → State) (s : State) :
    Host.Outcome State Fault Refusal :=
  match s.phaseOf s.active with
  | none => .fault .noSuchAgent
  | some .faulted => .fault .agentFaulted
  | some .idle => .next (take s.active first s)
  | some (.running f) =>
      match position f with
      | none => .fault .commandInFlight
      | some p => .next (take s.active p s)

/-- A command that is one atomic step (R74, R91): it reads the state and responds `(OK, value)`. -/
def runAtomic (i : Instr) (value : State → Byte) (s : State) : Host.Outcome State Fault Refusal :=
  runCommand atNone () (fun a _ t => t.respond a i.word .ok (value t)) s

/-- The guarded bracket every bus command runs around its body (R75); `wrap` names the phase of a position, `first` is
the body's first position and `bodyStep` takes a step of the body. The final GuardRelease's status is not looked at
(R75 "always OK here"; log 19). -/
def bracketStep {β : Type} (a : Nat) (w : Word) (wrap : BracketPc β → Phase) (first : β)
    (bodyStep : β → State → State) (pc : BracketPc β) (s : State) : State :=
  match pc with
  | .inc => acquireStep a w (wrap (.respond .guardOverflow 0x00)) (wrap .enter) (wrap (.body first)) s
  | .enter => (s.guardEnter a).setPhase a (wrap (.body first))
  | .body p => bodyStep p s
  | .dec status value =>
      releaseStep a w (wrap (.respond status value)) (wrap (.exit status value)) (wrap (.respond status value)) s
  | .exit status value => (s.guardExit a).setPhase a (wrap (.respond status value))
  | .respond status value => s.respond a w status value

/-- One bit of a byte command: the bit operation's own nested token around its slot, then `Delay(T_IBD)` (R80, R83);
`onOverflow` is where a nested overflow goes (R81) and `next` where the command goes on after the bit. -/
def nestedStep {σ : Type} (a : Nat) (w : Word) (wrap : NestedPc σ → Phase) (first : σ)
    (slotStep : σ → State → State) (onOverflow next : Phase) (pc : NestedPc σ) (s : State) : State :=
  match pc with
  | .inc => acquireStep a w onOverflow (wrap .enter) (wrap (.slot first)) s
  | .enter => (s.guardEnter a).setPhase a (wrap (.slot first))
  | .slot p => slotStep p s
  | .dec => releaseStep a w (wrap .ibd) (wrap .exit) (wrap .ibd) s
  | .exit => (s.guardExit a).setPhase a (wrap .ibd)
  | .ibd => (s.delay a .ibd).setPhase a next

end Sys2Proof.Machine
end

