-- ==== Sys2Proof/Machine/Bus.lean ====
section
/-! DEFINITION. The SingleWireBus commands of 41_bus.md: the two time slots, and RESET, WRITE_BIT, READ_BIT, WRITE_BYTE
and READ_BYTE. -/

namespace Sys2Proof.Machine

/-! ### The time slots -/

/-- A step of `WriteSlot(bit)` (R76): a write-0 is low for `T_SLOT`; a write-1 is low for `T_W1_LOW` and waits out the
slot after its release. `done` is the phase after the slot. -/
def writeSlotStep (a : Nat) (bit : Bit) (wrap : WriteSlotPc → Phase) (done : Phase) (pc : WriteSlotPc) (s : State) :
    State :=
  match pc with
  | .low => (s.lineDriveLow a).setPhase a (wrap .hold)
  | .hold => (s.delay a (if bit = 0 then .slot else .w1Low)).setPhase a (wrap .up)
  | .up => (s.lineRelease a).setPhase a (if bit = 0 then done else wrap .rest)
  | .rest => (s.delay a .slotRest).setPhase a done

/-- A step of `ReadSlot()` (R77); `b` is the local the sample is kept in, and `done` the phase after the slot. -/
def readSlotStep (a : Nat) (b : Bit) (wrap : Bit → ReadSlotPc → Phase) (done : Bit → Phase) (pc : ReadSlotPc)
    (s : State) : State :=
  match pc with
  | .low => (s.lineDriveLow a).setPhase a (wrap b .hold)
  | .hold => (s.delay a .rdLow).setPhase a (wrap b .up)
  | .up => (s.lineRelease a).setPhase a (wrap b .wait)
  | .wait => (s.delay a .rdSample).setPhase a (wrap b .sample)
  | .sample => (s.sample a).setPhase a (wrap s.level .rest)
  | .rest => (s.delay a .rdAfter).setPhase a (done b)

/-! ### RESET -/

/-- The phase of a position of RESET. -/
def resetPhase (pc : BracketPc ResetPc) : Phase := .running (.reset pc)

/-- The head of the presence window's loop: poll again while `i < N_PP`, else no device asserted presence (R78). -/
def resetPoll (i : Nat) (s : State) : Phase :=
  if i < s.cfg.nPp then resetPhase (.body (.poll i)) else resetPhase (.dec .ok 0x00)

/-- A step of RESET's body (R78). -/
def resetBodyStep (a : Nat) (pc : ResetPc) (s : State) : State :=
  match pc with
  | .low => (s.lineDriveLow a).setPhase a (resetPhase (.body .hold))
  | .hold => (s.delay a .rstLow).setPhase a (resetPhase (.body .up))
  | .up => (s.lineRelease a).setPhase a (resetPhase (.body .settle))
  | .settle => (s.delay a .rstSettle).setPhase a (resetPoll 0 s)
  | .poll i =>
      (s.sample a).setPhase a
        (if s.level = 0 then resetPhase (.body .waitSample) else resetPhase (.body (.pollDelay i)))
  | .pollDelay i => (s.delay a .pp).setPhase a (resetPoll (i + 1) s)
  | .waitSample =>
      (s.sample a).setPhase a
        (if s.level = 0 then resetPhase (.body .waitDelay) else resetPhase (.dec .ok 0x01))
  | .waitDelay => (s.delay a .wh).setPhase a (resetPhase (.body .waitSample))

/-- A step of RESET (R75, R78). -/
def resetStep (a : Nat) (pc : BracketPc ResetPc) (s : State) : State :=
  bracketStep a Instr.reset.word resetPhase .low (resetBodyStep a) pc s

/-- RESET (R78): the reset pulse, the presence window, and the unbounded wait for the end of the presence pulse (R104). -/
def execReset (s : State) : Host.Outcome State Fault Refusal := runCommand atReset .inc resetStep s

/-! ### Single bits -/

/-- The phase of a position of WRITE_BIT. -/
def writeBitPhase (bit : Bit) (pc : BracketPc WriteSlotPc) : Phase := .running (.writeBit bit pc)

/-- A step of WRITE_BIT (R75, R79): `WriteSlot(bit)` in a bracket; `(OK, 0x00)`. -/
def writeBitStep (bit : Bit) (a : Nat) (pc : BracketPc WriteSlotPc) (s : State) : State :=
  bracketStep a (Instr.writeBit bit).word (writeBitPhase bit) .low
    (writeSlotStep a bit (fun p => writeBitPhase bit (.body p)) (writeBitPhase bit (.dec .ok 0x00))) pc s

/-- WRITE_BIT (R79). -/
def execWriteBit (bit : Bit) (s : State) : Host.Outcome State Fault Refusal :=
  runCommand (atWriteBit bit) .inc (writeBitStep bit) s

/-- The phase of a position of READ_BIT. -/
def readBitPhase (pc : BracketPc ReadBitPc) : Phase := .running (.readBit pc)

/-- A step of READ_BIT's body (R82): `b <- ReadSlot(); return (OK, zext_8(b))`. -/
def readBitBodyStep (a : Nat) (pc : ReadBitPc) (s : State) : State :=
  readSlotStep a pc.b (fun b p => readBitPhase (.body ⟨b, p⟩)) (fun b => readBitPhase (.dec .ok (zext8 b))) pc.pc s

/-- A step of READ_BIT (R75, R82). -/
def readBitStep (a : Nat) (pc : BracketPc ReadBitPc) (s : State) : State :=
  bracketStep a Instr.readBit.word readBitPhase ⟨0, .low⟩ (readBitBodyStep a) pc s

/-- READ_BIT (R82). -/
def execReadBit (s : State) : Host.Outcome State Fault Refusal := runCommand atReadBit .inc readBitStep s

/-! ### Bytes -/

/-- The phase of a position of WRITE_BYTE. -/
def writeBytePhase (byte : Byte) (pc : BracketPc WriteBytePc) : Phase := .running (.writeByte byte pc)

/-- The phase after bit `i` of WRITE_BYTE: the next bit, or the result after bit 7 (R80). -/
def writeByteNext (byte : Byte) (i : Fin 8) : Phase :=
  if h : i.val + 1 < 8 then writeBytePhase byte (.body ⟨⟨i.val + 1, h⟩, .inc⟩)
  else writeBytePhase byte (.dec .ok 0x00)

/-- A step of WRITE_BYTE's body (R80, R81): bit `i` of the byte in slot `i`. -/
def writeByteBodyStep (a : Nat) (byte : Byte) (pc : WriteBytePc) (s : State) : State :=
  nestedStep a (Instr.writeByte byte).word (fun p => writeBytePhase byte (.body ⟨pc.i, p⟩)) .low
    (writeSlotStep a (bitAt byte pc.i) (fun p => writeBytePhase byte (.body ⟨pc.i, .slot p⟩))
      (writeBytePhase byte (.body ⟨pc.i, .dec⟩)))
    (writeBytePhase byte (.dec .guardOverflow 0x00)) (writeByteNext byte pc.i) pc.pc s

/-- A step of WRITE_BYTE (R75, R80). -/
def writeByteStep (byte : Byte) (a : Nat) (pc : BracketPc WriteBytePc) (s : State) : State :=
  bracketStep a (Instr.writeByte byte).word (writeBytePhase byte) ⟨0, .inc⟩ (writeByteBodyStep a byte) pc s

/-- WRITE_BYTE (R80): eight write slots, least significant bit first. -/
def execWriteByte (byte : Byte) (s : State) : Host.Outcome State Fault Refusal :=
  runCommand (atWriteByte byte) .inc (writeByteStep byte) s

/-- The phase of a position of READ_BYTE. -/
def readBytePhase (pc : BracketPc ReadBytePc) : Phase := .running (.readByte pc)

/-- The phase after bit `i` of READ_BYTE, with `v` the byte so far: the next bit, or the result after bit 7 (R83). -/
def readByteNext (v : Byte) (i : Fin 8) : Phase :=
  if h : i.val + 1 < 8 then readBytePhase (.body ⟨⟨i.val + 1, h⟩, v, 0, .inc⟩)
  else readBytePhase (.dec .ok v)

/-- A step of READ_BYTE's body (R83, R81): the bit of slot `i` into bit `i` of `v`. -/
def readByteBodyStep (a : Nat) (pc : ReadBytePc) (s : State) : State :=
  nestedStep a Instr.readByte.word (fun p => readBytePhase (.body ⟨pc.i, pc.v, pc.b, p⟩)) .low
    (readSlotStep a pc.b (fun b p => readBytePhase (.body ⟨pc.i, pc.v, b, .slot p⟩))
      (fun b => readBytePhase (.body ⟨pc.i, pc.v, b, .dec⟩)))
    (readBytePhase (.dec .guardOverflow 0x00)) (readByteNext (putBit pc.v pc.b pc.i) pc.i) pc.pc s

/-- A step of READ_BYTE (R75, R83). -/
def readByteStep (a : Nat) (pc : BracketPc ReadBytePc) (s : State) : State :=
  bracketStep a Instr.readByte.word readBytePhase ⟨0, 0x00, 0, .inc⟩ (readByteBodyStep a) pc s

/-- READ_BYTE (R83): eight read slots, least significant bit first. -/
def execReadByte (s : State) : Host.Outcome State Fault Refusal := runCommand atReadByte .inc readByteStep s

end Sys2Proof.Machine
end

