-- ==== Sys2Proof/Machine/Crc8.lean ====
section
/-! DEFINITION. The CRC8_validator commands of 42_crc8.md, each one atomic step (R91). -/

namespace Sys2Proof.Machine

/-- `crc8_step(acc, b) = T[acc ⊕ b]` (R86). -/
def crc8Step (c : Config) (acc b : Byte) : Byte := c.crcEntry (acc ^^^ b)

/-- `crc8(seed, bytes)`: the fold of R86, the first byte first (R87). -/
def crc8 (c : Config) (seed : Byte) (bytes : List Byte) : Byte := bytes.foldl (crc8Step c) seed

/-- A ROM code's CRC is right: `crc8(0, rom[0..6]) = rom[7]` (R94). -/
def romCrcOk (c : Config) (rom : List Byte) : Bool := crc8 c 0 (romCovered rom) == romCrc rom

/-- A ROM code's family code is not 0 (R94). -/
def romFamilyOk (rom : List Byte) : Bool := romFamily rom != 0x00

/-- A scratchpad is valid: `crc8(0, sp[0..7]) = sp[8]` (R95). -/
def scratchpadOk (c : Config) (sp : List Byte) : Bool := crc8 c 0 (scratchpadCovered sp) == scratchpadCrc sp

/-- The `VALUE` of CRC8_CHECK_ROM: bit 0 `valid`, bit 1 `crc_ok`, bit 2 `family_ok` (R58, R94). -/
def romValue (c : Config) (rom : List Byte) : Byte :=
  flag (romCrcOk c rom && romFamilyOk rom) ||| (flag (romCrcOk c rom) <<< 1) ||| (flag (romFamilyOk rom) <<< 2)

/-- The `VALUE` of CRC8_CHECK_SCRATCHPAD: bit 0 `valid` (R58, R95). -/
def scratchpadValue (c : Config) (sp : List Byte) : Byte := flag (scratchpadOk c sp)

/-- CRC8_STEP (R92): `step { respond(OK, crc8_step(acc, data)) }`. -/
def execCrc8Step (data acc : Byte) (s : State) : Host.Outcome State Fault Refusal :=
  runAtomic (.crc8Step data acc) (fun t => crc8Step t.cfg acc data) s

/-- CRC8_COMPUTE (R93): `step { respond(OK, crc8(0, bytes)) }`; more than 255 bytes are no command (R50, R56; log 16). -/
def execCrc8Compute (bytes : List Byte) (s : State) : Host.Outcome State Fault Refusal :=
  if bytes.length ≤ 255 then runAtomic (.crc8Compute bytes) (fun t => crc8 t.cfg 0 bytes) s
  else .refused .payloadLength

/-- CRC8_CHECK_ROM (R94); a list that is not of 8 bytes is no command (R55, R56; log 16). -/
def execCrc8CheckRom (rom : List Byte) (s : State) : Host.Outcome State Fault Refusal :=
  if rom.length = 8 then runAtomic (.crc8CheckRom rom) (fun t => romValue t.cfg rom) s
  else .refused .payloadLength

/-- CRC8_CHECK_SCRATCHPAD (R95); a list that is not of 9 bytes is no command (R55, R56; log 16). -/
def execCrc8CheckScratchpad (sp : List Byte) (s : State) : Host.Outcome State Fault Refusal :=
  if sp.length = 9 then runAtomic (.crc8CheckScratchpad sp) (fun t => scratchpadValue t.cfg sp) s
  else .refused .payloadLength

end Sys2Proof.Machine
end

