-- ==== Sys2Proof/Machine/Guard.lean ====
section
/-! DEFINITION. The MutualExclusionGuard commands of 40_guard.md: ACQUIRE, RELEASE and READ_ERR. -/

namespace Sys2Proof.Machine

/-- A step of ACQUIRE (R72): `s <- GuardAcquire(a); respond(s, 0x00)`. -/
def acquireCommandStep (a : Nat) (pc : AcquirePc) (s : State) : State :=
  match pc with
  | .inc =>
      acquireStep a Instr.acquire.word (.running (.acquire (.respond .guardOverflow)))
        (.running (.acquire .enter)) (.running (.acquire (.respond .ok))) s
  | .enter => (s.guardEnter a).setPhase a (.running (.acquire (.respond .ok)))
  | .respond status => s.respond a Instr.acquire.word status 0x00

/-- ACQUIRE (R72). -/
def execAcquire (s : State) : Host.Outcome State Fault Refusal :=
  runCommand atAcquire .inc acquireCommandStep s

/-- A step of RELEASE (R73): `s <- GuardRelease(a); respond(s, 0x00)`. -/
def releaseCommandStep (a : Nat) (pc : ReleasePc) (s : State) : State :=
  match pc with
  | .dec =>
      releaseStep a Instr.release.word (.running (.release (.respond .guardUnderflow)))
        (.running (.release .exit)) (.running (.release (.respond .ok))) s
  | .exit => (s.guardExit a).setPhase a (.running (.release (.respond .ok)))
  | .respond status => s.respond a Instr.release.word status 0x00

/-- RELEASE (R73). -/
def execRelease (s : State) : Host.Outcome State Fault Refusal :=
  runCommand atRelease .dec releaseCommandStep s

/-- READ_ERR (R74): `step { respond(OK, ERR) }`. -/
def execReadErr (s : State) : Host.Outcome State Fault Refusal := runAtomic .readErr State.err s

end Sys2Proof.Machine
end

