-- ==== Sys2Proof/Machine/Dispatch.lean ====
section
/-! DEFINITION. One arm per constructor of `Instr`: one step of that command by the active agent. -/

namespace Sys2Proof.Machine

-- `exec i s`: the active agent takes one atomic step (R10) of the command `i`.
def exec (i : Instr) (s : State) : Host.Outcome State Fault Refusal :=
  match i with
  | .acquire => Sys2Proof.Machine.execAcquire s
  | .release => Sys2Proof.Machine.execRelease s
  | .readErr => Sys2Proof.Machine.execReadErr s
  | .reset => Sys2Proof.Machine.execReset s
  | .writeBit bit => Sys2Proof.Machine.execWriteBit bit s
  | .readBit => Sys2Proof.Machine.execReadBit s
  | .writeByte byte => Sys2Proof.Machine.execWriteByte byte s
  | .readByte => Sys2Proof.Machine.execReadByte s
  | .crc8Step data acc => Sys2Proof.Machine.execCrc8Step data acc s
  | .crc8Compute bytes => Sys2Proof.Machine.execCrc8Compute bytes s
  | .crc8CheckRom rom => Sys2Proof.Machine.execCrc8CheckRom rom s
  | .crc8CheckScratchpad sp => Sys2Proof.Machine.execCrc8CheckScratchpad sp s

end Sys2Proof.Machine
end

