-- ==== Sys2Proof/Machine/Illegal.lean ====
section
/-! DEFINITION. What the block does with a command word that is no legal command (R59, R60): one atomic step of the
active agent, without a guard step and without a line step. -/

namespace Sys2Proof.Machine

/-- An illegal command with word `w` by the active agent: its `ERR` bit, its `FAULT` record and its response. -/
def illegalStep (status : Status) (w : Word) (s : State) : State :=
  (s.setErr status).respond s.active w status 0x00

/-- An illegal opcode (R59): `ERR.ILL_OPC <- 1`, `respond(ILLEGAL_OPCODE, 0x00)`. -/
def illegalOpcodeStep (w : Word) (s : State) : State := illegalStep .illegalOpcode w s

/-- An illegal operand (R60): `ERR.ILL_OPND <- 1`, `respond(ILLEGAL_OPERAND, 0x00)`. -/
def illegalOperandStep (w : Word) (s : State) : State := illegalStep .illegalOperand w s

end Sys2Proof.Machine
end

