-- ==== Sys2Proof/Machine/Port.lean ====
section
/-! DEFINITION. The block's boundary: whose turn it is, what an agent issues next, the block reset, and the refusals of
R105. `fetch` says what the next step is; `step` takes it. -/

namespace Sys2Proof.Machine

/-- What the next step of the machine is. -/
inductive Fetched where
  /-- One step of command `i` by the agent active in `s`. -/
  | run (i : Instr) (s : State)
  /-- An illegal opcode with word `w`, issued by the agent active in `s` (R59). -/
  | illegalOpcode (w : Word) (s : State)
  /-- An illegal operand with word `w`, issued by the agent active in `s` (R60). -/
  | illegalOperand (w : Word) (s : State)
  /-- The turn's agent has no step (R111, R117; log 4), or the block was reset (R118): the machine is at `s`. -/
  | settled (s : State)
  /-- A refusal at the boundary (R105). -/
  | refuse (r : Refusal)

/-- The command word a READ_BIT of the caller's poll loop has (R63). -/
def pollCommand : Command := encode .readBit

/-- The caller's poll loop has ended: the command issued last, which for a loop that has started is its own READ_BIT,
responded with `VALUE` = 0x01 (R63; log 13). A READ_BIT without a response, stopped by contention (R101), ends nothing:
`last` is none from its issue on. That the loop is still there after the block reset that lets the agent go on, and
issues READ_BIT again, is the model's choice (DESIGN CHOICE, log 14). -/
def pollDone (last : Option Word) : Bool :=
  match last with
  | none => false
  | some w => opndOf w == 0x01

/-- The command an idle agent issues next and the jobs it keeps, or none where it has nothing to issue. A poll loop
issues READ_BIT until one responds with `VALUE` = 0x01, without bound (R63, R104; log 13). -/
def nextCommand (last : Option Word) : List Job → Option (Command × List Job)
  | [] => none
  | .command c :: rest => some (c, rest)
  | .poll started :: rest =>
      if started && pollDone last then nextCommand last rest
      else some (pollCommand, .poll true :: rest)

/-- The next turn: the one chosen from outside, else one of the agents, by a free value (R10, R111; log 3). -/
def State.nextTurn (s : State) : Turn :=
  match s.turns with
  | t :: _ => t
  | [] => .agent (Config.freeTurn s.turnCount % s.cfg.nAgents)

/-- The state after that turn is taken from the choices. -/
def State.useTurn (s : State) : State :=
  match s.turns with
  | _ :: rest => { s with turns := rest }
  | [] => { s with turnCount := s.turnCount + 1 }

/-- Agent `a` moves next. -/
def State.activate (s : State) (a : Nat) : State := { s with active := a }

/-- Agent `a` keeps the jobs `jobs`. -/
def State.setJobs (s : State) (a : Nat) (jobs : List Job) : State :=
  s.modifyAgent a (fun ag => { ag with jobs := jobs })

/-- Agent `a` issues a command: it keeps the jobs `jobs`, and there is no response to the command yet (log 12). -/
def State.takeJob (s : State) (a : Nat) (jobs : List Job) : State :=
  s.modifyAgent a (fun ag => { ag with jobs := jobs, last := none })

/-- An agent that may stand by while the block is reset: `IDLE` or `FAULTED` (R119). -/
def Agent.quiet (ag : Agent) : Bool :=
  match ag.phase with
  | .idle => true
  | .faulted => true
  | .running _ => false

/-- The block reset (R32, R118): the block is as constructed and every agent is `IDLE`. What belongs to the host and the
environment stays: the parameters, each agent's jobs (a poll loop that has started too), issue position and last
response, the turns and the draws (R119; DESIGN CHOICE, log 14). -/
def State.blockReset (s : State) : State :=
  { s with
    count := 0
    region := false
    lineDrive := .released
    err := 0x00
    agents := s.agents.map (fun ag => { ag with phase := .idle })
    owner := none
    hist := []
    faults := [] }

/-- The host asks for a block reset: admitted only when every agent is `IDLE` or `FAULTED` (R119). -/
def fetchReset (s : State) : Fetched :=
  if s.agents.all Agent.quiet then .settled s.blockReset else .refuse .resetInFlight

/-- An idle active agent issues command `c`, handed over whole (R50): the decoder's answer (R56, R59, R60). -/
def fetchIssue (c : Command) (s : State) : Fetched :=
  match decode c with
  | .legal i => .run i s
  | .illegalOpcode => .illegalOpcode c.word s
  | .illegalOperand => .illegalOperand c.word s
  | .payloadLength => .refuse .payloadLength

/-- Agent `a`'s turn: the next step of its command in flight; else the command it issues next; else no step (R13, R14,
R101, R111; log 4). -/
def fetchAgent (a : Nat) (s : State) : Fetched :=
  match s.agents[a]? with
  | none => .settled s
  | some ag =>
      match ag.phase with
      | .faulted => .settled s
      | .running f => .run f.instr s
      | .idle =>
          match nextCommand ag.last ag.jobs with
          | none => .settled (s.setJobs a [])
          | some (c, jobs) => fetchIssue c (s.takeJob a jobs)

/-- The next step of the machine. A configuration that breaks a constraint is refused before anything else (R105 (c),
R125; log 17). -/
def fetch (s : State) : Fetched :=
  if s.cfg.admitted then
    match s.nextTurn with
    | .blockReset => fetchReset s.useTurn
    | .agent a => fetchAgent a (s.useTurn.activate a)
  else .refuse .configuration

end Sys2Proof.Machine
end

