-- ==== Sys2Proof/Machine/Step.lean ====
section
/-! DEFINITION. One step of the machine, and the placing of one command for the very next step. -/

namespace Sys2Proof.Machine

/-- The step that `fetch` says is next. -/
def takeFetched : Fetched → Host.Outcome State Fault Refusal
  | .run i t => exec i t
  | .illegalOpcode w t => .next (illegalOpcodeStep w t)
  | .illegalOperand w t => .next (illegalOperandStep w t)
  | .settled t => .next t
  | .refuse r => .refused r

/-- One step of the machine. -/
def step (s : State) : Host.Outcome State Fault Refusal := takeFetched (fetch s)

/-- `s` with the command that `nbits` bits `w` stand for placed so that the very next step runs it: agent 0 is idle, the
command is the first of its jobs, and the next turn is agent 0's (log 23). -/
def State.withFetchWord (s : State) (nbits w : Nat) : State :=
  { s with
    agents := s.agents.modify 0
      (fun ag => { ag with phase := .idle, jobs := .command (commandOfTable nbits w) :: ag.jobs })
    turns := .agent 0 :: s.turns }

end Sys2Proof.Machine
end

