-- ==== Sys2Proof/Machine/Asm.lean ====
section
/-! DEFINITION. The assembler of R62 and the pseudo-instructions of R63: from lines of text to the jobs an agent hands to
its port. It is host-side: no step of the block reads it. -/

namespace Sys2Proof.Machine

/-! ### Pseudo-instructions (R63) -/

/-- One command as a job. -/
def issue (i : Instr) : Job := .command (encode i)

/-- `WRITE_BYTES [b0, ..., bk]`: one WRITE_BYTE for each byte, in order. R63 gives the list no bound; the model takes a
list of any length, and the empty one gives no command (DESIGN CHOICE, log 26). -/
def writeBytes (bytes : List Byte) : List Job := bytes.map (fun b => issue (.writeByte b))

/-- `READ_BYTES n`: `n` times READ_BYTE; any `n`, and 0 gives no command (DESIGN CHOICE, log 26). -/
def readBytes (n : Nat) : List Job := List.replicate n (issue .readByte)

/-- The jobs of `GUARDED` around a body: ACQUIRE, the body, RELEASE. -/
def guardedJobs (body : List Job) : List Job := issue .acquire :: (body ++ [issue .release])

/-- `POLL_BIT_UNTIL_1`: the caller's unbounded loop of READ_BIT. -/
def pollBitUntil1 : List Job := [.poll false]

/-! ### Tokens (R62) -/

/-- A token of a line. -/
inductive Token where
  | text (cs : List Char)
  | comma
  | openList
  | closeList
  | openBody
  | closeBody
deriving DecidableEq, Repr

/-- The opening brace of `GUARDED` (R63). -/
def openBrace : Char := Char.ofNat 123

/-- The closing brace of `GUARDED` (R63). -/
def closeBrace : Char := Char.ofNat 125

/-- The token a character is by itself, if it is one. -/
def punctuation (c : Char) : Option Token :=
  if c = ',' then some .comma
  else if c = '[' then some .openList
  else if c = ']' then some .closeList
  else if c = openBrace then some .openBody
  else if c = closeBrace then some .closeBody
  else none

/-- Characters of a mnemonic or a number. -/
def textChar (c : Char) : Bool := c.isAlphanum || c == '_'

/-- Blanks between tokens. -/
def blankChar (c : Char) : Bool := c == ' ' || c == '\t' || c == '\r'

/-- The pending text as a token. -/
def flushText (cur : List Char) : List Token := if cur = [] then [] else [.text cur]

/-- The tokens of a line, with `cur` the text read so far of an unfinished token; `;` starts a comment (R62). None where
a character belongs to no token. -/
def tokens (cur : List Char) : List Char → Option (List Token)
  | [] => some (flushText cur)
  | c :: cs =>
      if c = ';' then some (flushText cur)
      else if textChar c then tokens (cur ++ [c]) cs
      else if blankChar c then (tokens [] cs).map (flushText cur ++ ·)
      else match punctuation c with
        | some t => (tokens [] cs).map (flushText cur ++ t :: ·)
        | none => none

/-- The value of a hexadecimal digit. -/
def hexDigit (c : Char) : Option Nat :=
  if '0' ≤ c ∧ c ≤ '9' then some (c.toNat - 48)
  else if 'a' ≤ c ∧ c ≤ 'f' then some (c.toNat - 87)
  else if 'A' ≤ c ∧ c ≤ 'F' then some (c.toNat - 55)
  else none

/-- Digits in base `base`, the most significant first, after the value `acc`. -/
def digits (base acc : Nat) : List Char → Option Nat
  | [] => some acc
  | c :: cs =>
      match hexDigit c with
      | some d => if d < base then digits base (base * acc + d) cs else none
      | none => none

/-- A number, decimal or `0x` hexadecimal (R62). -/
def number : List Char → Option Nat
  | [] => none
  | '0' :: 'x' :: c :: cs => digits 16 0 (c :: cs)
  | c :: cs => digits 10 0 (c :: cs)

/-! ### Lines (R62) -/

/-- An operand of a line: a number, or a payload list in square brackets. -/
inductive Operand where
  | num (n : Nat)
  | list (ns : List Nat)
deriving DecidableEq, Repr

/-- The numbers of a payload list up to its closing bracket, and the tokens after it. -/
def listItems : List Token → Option (List Nat × List Token)
  | .closeList :: rest => some ([], rest)
  | .text cs :: .closeList :: rest => (number cs).map (fun n => ([n], rest))
  | .text cs :: .comma :: .text ds :: rest =>
      match number cs, listItems (.text ds :: rest) with
      | some n, some (ns, after) => some (n :: ns, after)
      | _, _ => none
  | _ => none

/-- The operands of a line, separated by commas: each is a number or one list, and only the last may be a list. -/
def operands : List Token → Option (List Operand)
  | [] => some []
  | .openList :: rest =>
      match listItems rest with
      | some (ns, []) => some [.list ns]
      | _ => none
  | [.text cs] => (number cs).map (fun n => [.num n])
  | .text cs :: .comma :: t :: rest =>
      match number cs, operands (t :: rest) with
      | some n, some os => some (.num n :: os)
      | _, _ => none
  | _ => none

/-- A number as a byte; none outside 0 to 255 (R62). -/
def byteOf (n : Nat) : Option Byte := if n < 256 then some (BitVec.ofNat 8 n) else none

/-- Numbers as bytes (R62). -/
def bytesOf : List Nat → Option (List Byte)
  | [] => some []
  | n :: ns =>
      match byteOf n, bytesOf ns with
      | some b, some bs => some (b :: bs)
      | _, _ => none

/-- A command with a payload list, if it is well formed: an assembler rejects a list of the wrong length (R62). -/
def listCommand (f : List Byte → Instr) (ns : List Nat) : Option (List Job) :=
  match bytesOf ns with
  | some bs => if (f bs).wellFormed then some [issue (f bs)] else none
  | none => none

/-- One line's mnemonic and operands as jobs (R62, R63); none where the assembler rejects it. The lengths R63 leaves open
for `WRITE_BYTES` and `READ_BYTES` are the model's choice (log 26). -/
def assembleCommand (mnemonic : List Char) (os : List Operand) : Option (List Job) :=
  if mnemonic = "ACQUIRE".toList ∧ os = [] then some [issue .acquire]
  else if mnemonic = "RELEASE".toList ∧ os = [] then some [issue .release]
  else if mnemonic = "READ_ERR".toList ∧ os = [] then some [issue .readErr]
  else if mnemonic = "RESET".toList ∧ os = [] then some [issue .reset]
  else if mnemonic = "READ_BIT".toList ∧ os = [] then some [issue .readBit]
  else if mnemonic = "READ_BYTE".toList ∧ os = [] then some [issue .readByte]
  else if mnemonic = "POLL_BIT_UNTIL_1".toList ∧ os = [] then some pollBitUntil1
  else
    match os with
    | [.num n] =>
        if mnemonic = "WRITE_BIT".toList then
          if n < 2 then some [issue (.writeBit (BitVec.ofNat 1 n))] else none
        else if mnemonic = "WRITE_BYTE".toList then (byteOf n).map (fun b => [issue (.writeByte b)])
        else if mnemonic = "READ_BYTES".toList then some (readBytes n)
        else none
    | [.num data, .num acc] =>
        if mnemonic = "CRC8_STEP".toList then
          match byteOf data, byteOf acc with
          | some d, some a => some [issue (.crc8Step d a)]
          | _, _ => none
        else none
    | [.list ns] =>
        if mnemonic = "CRC8_COMPUTE".toList then listCommand .crc8Compute ns
        else if mnemonic = "CRC8_CHECK_ROM".toList then listCommand .crc8CheckRom ns
        else if mnemonic = "CRC8_CHECK_SCRATCHPAD".toList then listCommand .crc8CheckScratchpad ns
        else if mnemonic = "WRITE_BYTES".toList then (bytesOf ns).map writeBytes
        else none
    | _ => none

/-- The jobs of a program's lines, with `depth` the number of open `GUARDED` bodies: `GUARDED` with its opening brace on
a line of its own, a closing brace on a line of its own, or one command per line (R62, R63; log 26). None where a line
is rejected or the braces do not match. -/
def assembleLines (depth : Nat) : List (List Char) → Option (List Job)
  | [] => if depth = 0 then some [] else none
  | line :: rest =>
      match tokens [] line with
      | none => none
      | some [] => assembleLines depth rest
      | some [.closeBody] =>
          if depth = 0 then none else (assembleLines (depth - 1) rest).map (issue .release :: ·)
      | some [.text cs, .openBody] =>
          if cs = "GUARDED".toList then (assembleLines (depth + 1) rest).map (issue .acquire :: ·) else none
      | some (.text cs :: ts) =>
          match operands ts with
          | none => none
          | some os =>
              match assembleCommand cs os, assembleLines depth rest with
              | some js, some more => some (js ++ more)
              | _, _ => none
      | some _ => none

/-- The jobs of a program, one command per line (R62). -/
def assemble (program : List String) : Option (List Job) := assembleLines 0 (program.map String.toList)

end Sys2Proof.Machine
end

