-- ==== Sys2Proof/Safety.lean ====
section
/-! DEFINITION. The terms of claims: running one command alone, the events a command leaves, clean entry and success
(R122, R123), the `DEVICE` premise (R35), the guard and line invariant, the replay of `HIST`, and delay totals (R132).
No step reads anything of this file. -/

namespace Sys2Proof.Safety

open Sys2Proof.Machine

/-! ### Running one command alone -/

/-- `n` consecutive steps of command `i` by the active agent, with no step of another agent between them. -/
def runAlone : Nat → Instr → State → Host.Outcome State Fault Refusal
  | 0, _, s => .next s
  | n + 1, i, s =>
      match exec i s with
      | .next t => runAlone n i t
      | .fault r => .fault r
      | .refused r => .refused r

/-- The active agent is there and `IDLE`: it may issue a command (R14). -/
def Idle (s : State) : Prop := s.phaseOf s.active = some .idle

/-- `OWNER ∈ {none, a}` for the active agent: no contention (R67). -/
def GuardOpen (s : State) : Prop := s.owner = none ∨ s.owner = some s.active

/-- The commands that take a guard step (R72, R73, R75). -/
def guarded : Instr → Bool
  | .acquire => true
  | .release => true
  | .readErr => false
  | .reset => true
  | .writeBit _ => true
  | .readBit => true
  | .writeByte _ => true
  | .readByte => true
  | .crc8Step _ _ => false
  | .crc8Compute _ => false
  | .crc8CheckRom _ => false
  | .crc8CheckScratchpad _ => false

/-- The commands that begin with GuardAcquire: ACQUIRE and the bus commands (R72, R75). -/
def acquires : Instr → Bool
  | .release => false
  | i => guarded i

/-! ### The events a command leaves -/

/-- `HIST` with events of the active agent's command appended (R26). -/
def histWith (s : State) (kinds : List EventKind) : List Event :=
  s.hist ++ kinds.map (fun k => ⟨s.active, s.seqOf s.active, k⟩)

/-- The agents after a response to the active one (R13, R57, R64). -/
def agentsAfter (s : State) (status : Status) (value : Byte) : List Agent :=
  s.agents.modify s.active (fun ag => ag.responded status value)

/-- The `FAULT` record of the active agent's command with word `w` (R27). -/
def recordOf (s : State) (w : Word) (kind : FaultKind) : FaultRecord := ⟨s.active, s.seqOf s.active, w, kind⟩

/-- The events of a GuardAcquire at `COUNT` = `k`, of `body`, and of the matching GuardRelease (R65, R66, R75). -/
def bracketEvents (k : Nat) (body : List EventKind) : List EventKind :=
  if k = 0 then [.inc 0, .enter] ++ body ++ [.dec 0, .exit] else [.inc k] ++ body ++ [.dec k]

/-- The events of `WriteSlot(bit)` (R76). -/
def writeSlotEvents (bit : Bit) : List EventKind :=
  if bit = 0 then [.driveLow, .delay .slot, .lineRelease]
  else [.driveLow, .delay .w1Low, .lineRelease, .delay .slotRest]

/-- The events of `ReadSlot()` that samples the level `l` (R77). -/
def readSlotEvents (l : Bit) : List EventKind :=
  [.driveLow, .delay .rdLow, .lineRelease, .delay .rdSample, .sample l, .delay .rdAfter]

/-- The events of one bit of a byte command, at `COUNT` = `k` (R80, R83). -/
def bitEvents (k : Nat) (slot : List EventKind) : List EventKind := [.inc k] ++ slot ++ [.dec k, .delay .ibd]

/-- The events of WRITE_BYTE's body at `COUNT` = `k`: bit 0 first (R80). -/
def writeByteEvents (k : Nat) (byte : Byte) : List EventKind :=
  (List.finRange 8).flatMap (fun i => bitEvents k (writeSlotEvents (bitAt byte i)))

/-- The events of READ_BYTE's body at `COUNT` = `k` with the sampled levels `ls` (R83). -/
def readByteEvents (k : Nat) (ls : List Bit) : List EventKind := ls.flatMap (fun l => bitEvents k (readSlotEvents l))

/-- The events of the reset pulse (R78). -/
def pulseEvents : List EventKind := [.driveLow, .delay .rstLow, .lineRelease, .delay .rstSettle]

/-- The events of `n` presence samples that read 1 (R78). -/
def absentEvents (n : Nat) : List EventKind := (List.replicate n [.sample 1, .delay .pp]).flatten

/-- The events of presence on sample `j` with `w` low wait samples before the line is high again (R78). -/
def presentEvents (j w : Nat) : List EventKind :=
  absentEvents j ++ [.sample 0] ++ (List.replicate w [.sample 0, .delay .wh]).flatten ++ [.sample 1]

/-- The idle active agent issues command `i` in `s` and, with no step of another agent between, runs it to its response:
the whole run appends the events `kinds`, of which the last and no other is a response, and ends in `t`. -/
def RunsTo (i : Instr) (s : State) (kinds : List EventKind) (t : State) : Prop :=
  Idle s ∧ ∃ (before : List EventKind) (status : Status) (value : Byte) (s1 : State),
    kinds = before ++ [.respond status value] ∧ (∀ q v, .respond q v ∉ before) ∧
    exec i s = .next s1 ∧ runAlone before.length i s1 = .next t ∧ t.hist = histWith s kinds

/-- The level of the `n`-th sample of a released line from `s` on, counted from 0 (R35). -/
def levelAt (s : State) (n : Nat) : Bit := (State.useDraw^[n] s).drawLevel

/-! ### Runs -/

/-- The end of a successful run (R122). (e) is not a condition on a state: a refusal is an outcome that no state
follows. -/
def Success (s : State) : Prop :=
  (∀ ag ∈ s.agents, ag.phase = .idle) ∧
  s.count = 0 ∧ s.region = false ∧ s.owner = none ∧
  s.lineDrive = .released ∧
  s.faults = []

/-- A final bad state (R122): every agent is `IDLE` and the run is no success. With every agent `IDLE` and a token still
live, R122 calls the state final bad, while R72 and U16 call it not final: the model follows R122 (DESIGN CHOICE, log
27). All three agree that it is no success. -/
def FinalBad (s : State) : Prop := (∀ ag ∈ s.agents, ag.phase = .idle) ∧ ¬ Success s

/-- A clean-entry state (R123). -/
def CleanEntry (s : State) : Prop := Success s ∧ s.err = 0x00

/-- The single-owner premise (R47): while `COUNT` > 0 or an exit window is open, that is, while there is an owner, the
active agent is the owner. -/
def SingleOwner (s : State) : Prop := GuardOpen s

/-- A `DEVICE` relation (R6, R35): which levels a sample of the released line may return after a history. -/
abbrev Device := List Event → Bit → Prop

/-- The default `DEVICE`: unconstrained (R6). -/
def anyDevice : Device := fun _ _ => True

/-- Every sampled level of `hist` is one that `device` allows, given `HIST` up to that sample (R35; log 6). The block
never samples a line it drives, so every sample is of the released line. -/
def DeviceAllows (device : Device) (hist : List Event) : Prop :=
  ∀ before e after l, hist = before ++ e :: after → e.kind = .sample l → device before l

/-! ### The guard and line invariant -/

/-- What a position says of the guard. -/
inductive Hold where
  /-- Nothing: the agent may or may not hold tokens. -/
  | free
  /-- In the enter window of R28 (a). -/
  | entering
  /-- At least `n` tokens are held for the command in flight. -/
  | held (n : Nat)
  /-- In the exit window of R28 (b). -/
  | exiting
  /-- No run comes here: an enter or exit step of a nested token (R70). -/
  | never
deriving DecidableEq, Repr

/-- The guard at a position of a bracket (R75), with `body` the guard at the body's positions. -/
def bracketHold {β : Type} (body : β → Hold) : BracketPc β → Hold
  | .inc => .free
  | .enter => .entering
  | .body p => body p
  | .dec _ _ => .held 1
  | .exit _ _ => .exiting
  | .respond _ _ => .free

/-- The guard at a position of one bit of a byte command (R80). -/
def nestedHold {σ : Type} : NestedPc σ → Hold
  | .inc => .held 1
  | .enter => .never
  | .slot _ => .held 2
  | .dec => .held 2
  | .exit => .never
  | .ibd => .held 1

/-- The guard at a position of a command in flight. -/
def flightHold : Flight → Hold
  | .acquire .inc => .free
  | .acquire .enter => .entering
  | .acquire (.respond .ok) => .held 1
  | .acquire (.respond _) => .free
  | .release .dec => .free
  | .release .exit => .exiting
  | .release (.respond _) => .free
  | .reset pc => bracketHold (fun _ => .held 1) pc
  | .writeBit _ pc => bracketHold (fun _ => .held 1) pc
  | .readBit pc => bracketHold (fun _ => .held 1) pc
  | .writeByte _ pc => bracketHold (fun p => nestedHold p.pc) pc
  | .readByte pc => bracketHold (fun p => nestedHold p.pc) pc

/-- The guard at a phase. -/
def phaseHold : Phase → Hold
  | .idle => .free
  | .faulted => .free
  | .running f => flightHold f

/-- The line at a position of a write slot (R76). -/
def writeSlotDrive : WriteSlotPc → Drive
  | .low => .released
  | .hold => .driven
  | .up => .driven
  | .rest => .released

/-- The line at a position of a read slot (R77). -/
def readSlotDrive : ReadSlotPc → Drive
  | .low => .released
  | .hold => .driven
  | .up => .driven
  | .wait => .released
  | .sample => .released
  | .rest => .released

/-- The line at a position of RESET's body (R78). -/
def resetDrive : ResetPc → Drive
  | .hold => .driven
  | .up => .driven
  | _ => .released

/-- The line at a position of a bracket: released outside the body. -/
def bracketDrive {β : Type} (body : β → Drive) : BracketPc β → Drive
  | .body p => body p
  | _ => .released

/-- The line at a position of one bit of a byte command: released outside the slot. -/
def nestedDrive {σ : Type} (slot : σ → Drive) : NestedPc σ → Drive
  | .slot p => slot p
  | _ => .released

/-- The line at a position of a command in flight. -/
def flightDrive : Flight → Drive
  | .acquire _ => .released
  | .release _ => .released
  | .reset pc => bracketDrive resetDrive pc
  | .writeBit _ pc => bracketDrive writeSlotDrive pc
  | .readBit pc => bracketDrive (fun p => readSlotDrive p.pc) pc
  | .writeByte _ pc => bracketDrive (fun p => nestedDrive writeSlotDrive p.pc) pc
  | .readByte pc => bracketDrive (fun p => nestedDrive readSlotDrive p.pc) pc

/-- The line at a phase. -/
def phaseDrive : Phase → Drive
  | .idle => .released
  | .faulted => .released
  | .running f => flightDrive f

/-- `COUNT` and `REGION` while the owner is at a position with guard `h` (R18, R25, R28). -/
def ownedGuard (h : Hold) (count : Nat) (region : Bool) : Prop :=
  match h with
  | .free => 1 ≤ count ∧ region = true
  | .entering => count = 1 ∧ region = false
  | .held n => 1 ≤ count ∧ n ≤ count ∧ region = true
  | .exiting => count = 0 ∧ region = true
  | .never => False

/-- The invariant of the guard and the line. -/
structure Inv (s : State) : Prop where
  /-- The configuration is admitted (R125). -/
  admitted : s.cfg.admitted = true
  /-- There are `N_AGENTS` agents (R11). -/
  agents : s.agents.length = s.cfg.nAgents
  /-- `COUNT` is a legal value (R17). -/
  count : s.count ≤ s.cfg.maxCount
  /-- The reserved `ERR` bits read 0 (R21). -/
  err : s.err.extractLsb' 4 4 = 0
  /-- Without an owner no token is live, the region is left and the line is released. -/
  unowned : s.owner = none → s.count = 0 ∧ s.region = false ∧ s.lineDrive = .released
  /-- With an owner, the guard and the line are as the owner's position says. -/
  owned : ∀ o, s.owner = some o → ∃ p, s.phaseOf o = some p ∧ ownedGuard (phaseHold p) s.count s.region ∧
    s.lineDrive = phaseDrive p
  /-- An agent at a position that holds the guard is the owner. -/
  holder : ∀ a p, s.phaseOf a = some p → phaseHold p ≠ .free → s.owner = some a

/-- The next step of a bracket is an increment or a decrement step. -/
def bracketCounts {β : Type} (body : β → Bool) : BracketPc β → Bool
  | .inc => true
  | .dec _ _ => true
  | .body p => body p
  | _ => false

/-- The next step of one bit of a byte command is an increment or a decrement step. -/
def nestedCounts {σ : Type} : NestedPc σ → Bool
  | .inc => true
  | .dec => true
  | _ => false

/-- The next step of a command in flight is an increment or a decrement step of the guard (R65, R66). -/
def flightCounts : Flight → Bool
  | .acquire .inc => true
  | .acquire _ => false
  | .release .dec => true
  | .release _ => false
  | .reset pc => bracketCounts (fun _ => false) pc
  | .writeBit _ pc => bracketCounts (fun _ => false) pc
  | .readBit pc => bracketCounts (fun _ => false) pc
  | .writeByte _ pc => bracketCounts (fun p => nestedCounts p.pc) pc
  | .readByte pc => bracketCounts (fun p => nestedCounts p.pc) pc

/-- The next step of a bracket is a decrement step. -/
def bracketReleases {β : Type} (body : β → Bool) : BracketPc β → Bool
  | .dec _ _ => true
  | .body p => body p
  | _ => false

/-- The next step of one bit of a byte command is a decrement step. -/
def nestedReleases {σ : Type} : NestedPc σ → Bool
  | .dec => true
  | _ => false

/-- The next step of a command in flight is a decrement step of the guard (R66). -/
def flightReleases : Flight → Bool
  | .acquire _ => false
  | .release .dec => true
  | .release _ => false
  | .reset pc => bracketReleases (fun _ => false) pc
  | .writeBit _ pc => bracketReleases (fun _ => false) pc
  | .readBit pc => bracketReleases (fun _ => false) pc
  | .writeByte _ pc => bracketReleases (fun p => nestedReleases p.pc) pc
  | .readByte pc => bracketReleases (fun p => nestedReleases p.pc) pc

/-! ### The replay of HIST -/

/-- What `HIST` says of the guard and the line. -/
structure Replay where
  count : Nat
  region : Bool
  lineDrive : Drive
  owner : Option Nat
deriving DecidableEq, Repr

/-- What one event does to them (R20, R25, R34, R65, R66): an `Inc` adds a token, and one that found none sets the
owner; a `Dec` takes one; `Enter` and `Exit` enter and leave the region, and `Exit` ends the epoch. -/
def Replay.apply (r : Replay) (e : Event) : Replay :=
  match e.kind with
  | .driveLow => { r with lineDrive := .driven }
  | .lineRelease => { r with lineDrive := .released }
  | .inc old => { r with count := r.count + 1, owner := if old = 0 then some e.agent else r.owner }
  | .enter => { r with region := true }
  | .dec _ => { r with count := r.count - 1 }
  | .exit => { r with region := false, owner := none }
  | .delay _ => r
  | .sample _ => r
  | .incOverflow => r
  | .decUnderflow => r
  | .respond _ _ => r
  | .fault _ => r

/-- The registers after a history, from the reset values (R32). -/
def replay (hist : List Event) : Replay := hist.foldl Replay.apply ⟨0, false, .released, none⟩

/-- `HIST` accounts for the registers. -/
def HistAgrees (s : State) : Prop := replay s.hist = ⟨s.count, s.region, s.lineDrive, s.owner⟩

/-! ### Records of status errors -/

/-- The result a position of a bracket will respond with, where it is fixed already. -/
def bracketResult {β : Type} : BracketPc β → Option (Status × Byte)
  | .dec status value => some (status, value)
  | .exit status value => some (status, value)
  | .respond status value => some (status, value)
  | _ => none

/-- The result a command in flight will respond with, where it is fixed already. -/
def flightResult : Flight → Option (Status × Byte)
  | .acquire (.respond status) => some (status, 0x00)
  | .acquire _ => none
  | .release (.respond status) => some (status, 0x00)
  | .release _ => none
  | .reset pc => bracketResult pc
  | .writeBit _ pc => bracketResult pc
  | .readBit pc => bracketResult pc
  | .writeByte _ pc => bracketResult pc
  | .readByte pc => bracketResult pc

/-- Every result that is fixed has `VALUE` 0x00 if its `STATUS` is not `OK` (R57). -/
def ErrorsHaveNoValue (s : State) : Prop :=
  ∀ a f status value, s.phaseOf a = some (.running f) → flightResult f = some (status, value) → status ≠ .ok →
    value = 0x00

/-- A nonzero `ERR` is accounted for: by a record in `FAULT`, or by a command in flight that has a status error to
respond with (R100, R122 (d); log 18). -/
def ErrRecorded (s : State) : Prop :=
  s.err ≠ 0 → s.faults ≠ [] ∨
    ∃ a f status value, s.phaseOf a = some (.running f) ∧ flightResult f = some (status, value) ∧ status ≠ .ok

/-! ### Delay totals (R132): informative -/

/-- The µs a delay's name stands for (R6, R76, R77). -/
def micros (c : Config) : DelayName → Nat
  | .rstLow => c.tRstLow
  | .rstSettle => c.tRstSettle
  | .pp => c.tPp
  | .wh => c.tWh
  | .slot => c.tSlot
  | .w1Low => c.tW1Low
  | .slotRest => c.tSlot - c.tW1Low
  | .rdLow => c.tRdLow
  | .rdSample => c.tRdSample
  | .rdAfter => c.tRdRest - c.tRdSample
  | .ibd => c.tIbd

/-- The µs of one event: those of a delay, 0 for every other event. -/
def eventMicros (c : Config) : EventKind → Nat
  | .delay name => micros c name
  | _ => 0

/-- The sum of the delays of a list of events (R132). -/
def delayTotal (c : Config) (kinds : List EventKind) : Nat := (kinds.map (eventMicros c)).sum

end Sys2Proof.Safety
end

