-- ==== Sys2Proof/Certificates/Slice0/Obligations.lean ====
section
/-! DEFINITION. The statements for the provers. Each docstring names the rules it formalises. Every next state is written
as a record update of the state before, so what is not named is unchanged. -/

open Sys2Proof Sys2Proof.Machine Sys2Proof.Safety

/-! ### Reset and the boundary -/

/-- R32: the state after a block reset, for every configuration. -/
def Obligations.BlockResetState : Prop :=
  ∀ c : Config,
    (State.resetWith c).count = 0 ∧ (State.resetWith c).region = false ∧
    (State.resetWith c).lineDrive = .released ∧ (State.resetWith c).err = 0x00 ∧
    (State.resetWith c).cfg.crcTable = c.crcTable ∧
    (∀ a, a < c.nAgents → (State.resetWith c).phaseOf a = some .idle) ∧
    (State.resetWith c).owner = none ∧ (State.resetWith c).hist = [] ∧ (State.resetWith c).faults = []

/-- R119, R118: a block reset is admitted only with every agent `IDLE` or `FAULTED`; then the block is as constructed
and the environment and the host's inputs stay (that the jobs, the issue positions and the turns stay is the model's
choice, log 14). -/
def Obligations.BlockResetAdmittedOnlyWhenQuiet : Prop :=
  ∀ (s : State) (rest : List Turn), s.cfg.admitted = true → s.turns = .blockReset :: rest →
    ((∀ ag ∈ s.agents, ag.phase = .idle ∨ ag.phase = .faulted) →
      step s = .next { s with
        turns := rest, count := 0, region := false, lineDrive := .released, err := 0x00,
        agents := s.agents.map (fun ag => { ag with phase := .idle }), owner := none, hist := [], faults := [] }) ∧
    ((∃ ag ∈ s.agents, ∃ f, ag.phase = .running f) → step s = .refused .resetInFlight)

/-- R13, R14, R50: at the turn of an idle agent whose next job is a command that decodes to `i`, the machine takes one
step of `i` for that agent; around it, the turn is used, the command is taken from the agent's jobs, and the response
of an earlier command is no longer its last. Model's
readings: the issue is the first step (log 1), turns and jobs (logs 3, 12). -/
def Obligations.StepRunsDecodedCommand : Prop :=
  ∀ (s : State) (a : Nat) (rest : List Turn) (ag : Agent) (c : Command) (jobs : List Job) (i : Instr),
    s.cfg.admitted = true → s.turns = .agent a :: rest → s.agents[a]? = some ag → ag.phase = .idle →
    ag.jobs = .command c :: jobs → decode c = .legal i →
    step s = exec i { s with
      turns := rest, active := a, agents := s.agents.modify a (fun g => { g with jobs := jobs, last := none }) }

/-- R13, R14: at the turn of an agent with a command in flight, the machine takes that command's next step, which ends
in a next state, and issues nothing; also at a free turn (log 3). -/
def Obligations.StepContinuesCommandInFlight : Prop :=
  ∀ (s : State) (a : Nat) (f : Flight), s.cfg.admitted = true → s.phaseOf a = some (.running f) →
    (∀ rest, s.turns = .agent a :: rest →
      step s = exec f.instr { s with turns := rest, active := a } ∧ ∃ t, step s = .next t) ∧
    (s.turns = [] → Config.freeTurn s.turnCount % s.cfg.nAgents = a →
      step s = exec f.instr { s with turnCount := s.turnCount + 1, active := a } ∧ ∃ t, step s = .next t)

/-- R101, R111, R117: a turn of an agent that is `FAULTED`, or `IDLE` with nothing to issue, or not there, changes
nothing but the turn (that such a turn passes is the model's choice, log 4). -/
def Obligations.TurnWithoutAStepPasses : Prop :=
  ∀ (s : State) (a : Nat) (rest : List Turn), s.cfg.admitted = true → s.turns = .agent a :: rest →
    (s.phaseOf a = some .faulted ∨ s.phaseOf a = none ∨
      ∃ ag, s.agents[a]? = some ag ∧ ag.phase = .idle ∧ ag.jobs = []) →
    step s = .next { s with turns := rest, active := a }

/-- R59: an illegal opcode changes nothing but `ERR.ILL_OPC`, its record and its response 0x0100. Model's readings: the
turn used (log 3), the job taken and `last` (log 12), the site (logs 10, 11). -/
def Obligations.IllegalOpcodeEffect : Prop :=
  ∀ (s : State) (a : Nat) (rest : List Turn) (ag : Agent) (w : Word) (jobs : List Job),
    s.cfg.admitted = true → s.turns = .agent a :: rest → s.agents[a]? = some ag → ag.phase = .idle →
    ag.jobs = .command ⟨w, []⟩ :: jobs →
    ((opcOf w).toNat = 0x00 ∨ (0x04 ≤ (opcOf w).toNat ∧ (opcOf w).toNat ≤ 0x0F) ∨
      (0x15 ≤ (opcOf w).toNat ∧ (opcOf w).toNat ≤ 0x1F) ∨ 0x24 ≤ (opcOf w).toNat) →
    step s = .next { s with
      turns := rest, active := a, err := s.err ||| 0x01,
      hist := s.hist ++ [⟨a, ag.seq, .respond .illegalOpcode 0x00⟩],
      faults := s.faults ++ [⟨a, ag.seq, w, .illegalOpcode⟩],
      agents := s.agents.modify a
        (fun g => { g with jobs := jobs, phase := .idle, seq := g.seq + 1, last := some 0x0100 }) }

/-- R60: an illegal operand changes nothing but `ERR.ILL_OPND`, its record and its response 0x0200; formats `D`, `S` and
`L` have none. Model's readings: the turn used (log 3), the job taken and `last` (log 12), the site (logs 10, 11). -/
def Obligations.IllegalOperandEffect : Prop :=
  (∀ (s : State) (a : Nat) (rest : List Turn) (ag : Agent) (w : Word) (p : List Byte) (jobs : List Job) (o : Opcode),
    s.cfg.admitted = true → s.turns = .agent a :: rest → s.agents[a]? = some ag → ag.phase = .idle →
    ag.jobs = .command ⟨w, p⟩ :: jobs → opcOf w = o.code → p.length = payloadLen (opcOf w) (opndOf w) →
    ((o ∈ [Opcode.acquire, .release, .readErr, .reset, .readBit, .readByte, .crc8CheckRom, .crc8CheckScratchpad] ∧
        opndOf w ≠ 0x00) ∨
      (o = .writeBit ∧ (opndOf w).extractLsb' 1 7 ≠ 0)) →
    step s = .next { s with
      turns := rest, active := a, err := s.err ||| 0x02,
      hist := s.hist ++ [⟨a, ag.seq, .respond .illegalOperand 0x00⟩],
      faults := s.faults ++ [⟨a, ag.seq, w, .illegalOperand⟩],
      agents := s.agents.modify a
        (fun g => { g with jobs := jobs, phase := .idle, seq := g.seq + 1, last := some 0x0200 }) }) ∧
  (∀ (w : Word) (p : List Byte) (o : Opcode), opcOf w = o.code →
    o ∈ [Opcode.writeByte, .crc8Step, .crc8Compute] → decode ⟨w, p⟩ ≠ .illegalOperand)

/-- R56: a command whose payload does not have exactly `len(OPC, OPND)` bytes is refused by name. -/
def Obligations.WrongPayloadLengthRefused : Prop :=
  ∀ (s : State) (a : Nat) (rest : List Turn) (ag : Agent) (c : Command) (jobs : List Job),
    s.cfg.admitted = true → s.turns = .agent a :: rest → s.agents[a]? = some ag → ag.phase = .idle →
    ag.jobs = .command c :: jobs → c.payload.length ≠ payloadLen (opcOf c.word) (opndOf c.word) →
    step s = .refused .payloadLength

/-- R125: a configuration that breaks a constraint is refused, whatever the state. -/
def Obligations.BrokenConfigurationRefused : Prop :=
  ∀ s : State,
    (s.cfg.tRstLow = 0 ∨ s.cfg.tRstSettle = 0 ∨ s.cfg.tPp = 0 ∨ s.cfg.tWh = 0 ∨ s.cfg.tSlot = 0 ∨ s.cfg.tW1Low = 0 ∨
      s.cfg.tRdLow = 0 ∨ s.cfg.tRdRest = 0 ∨ s.cfg.tIbd = 0 ∨ s.cfg.nPp < 1 ∨ s.cfg.wCnt < 1 ∨
      s.cfg.tSlot ≤ s.cfg.tW1Low ∨ s.cfg.tRdRest ≤ s.cfg.tRdSample) →
    step s = .refused .configuration

/-- R105: `step` never faults, and it refuses only for a broken configuration, a block reset with a command in flight,
or a command with a payload of the wrong length. Model's readings: the configuration is checked at every step (log 17),
turns and jobs (logs 3, 12). -/
def Obligations.StepStopsOnlyAsR105Says : Prop :=
  ∀ s : State,
    (∀ r, step s ≠ .fault r) ∧
    (∀ r, step s = .refused r →
      (r = .configuration ∧ s.cfg.admitted = false) ∨
      (r = .resetInFlight ∧ s.nextTurn = .blockReset ∧ ∃ ag ∈ s.agents, ∃ f, ag.phase = .running f) ∨
      (r = .payloadLength ∧ ∃ a ag c, s.nextTurn = .agent a ∧ s.agents[a]? = some ag ∧ ag.phase = .idle ∧
        .command c ∈ ag.jobs ∧ c.payload.length ≠ payloadLen (opcOf c.word) (opndOf c.word)))

/-- R63, R104 (b): the caller's poll loop issues READ_BIT, and stays, for as long as no READ_BIT of it has responded with
`VALUE` = 0x01; from its issue on that READ_BIT's response is the only one the loop can read. Once it has responded with
0x01 the loop is over: the machine goes on as if it were not there. Model's readings: turns and jobs (logs 3, 12), the
loop as a job (log 13). The first part takes in a loop whose READ_BIT contention stopped, after a block reset (`started`
and `last` none): that it issues READ_BIT again is no rule of the spec but the model's choice (DESIGN CHOICE, log 14). -/
def Obligations.PollLoopIsUnbounded : Prop :=
  (∀ (s : State) (a : Nat) (rest : List Turn) (ag : Agent) (started : Bool) (jobs : List Job),
    s.cfg.admitted = true → s.turns = .agent a :: rest → s.agents[a]? = some ag → ag.phase = .idle →
    ag.jobs = .poll started :: jobs → (started = true → ∀ w, ag.last = some w → opndOf w ≠ 0x01) →
    step s = exec .readBit { s with
      turns := rest, active := a,
      agents := s.agents.modify a (fun g => { g with jobs := .poll true :: jobs, last := none }) }) ∧
  (∀ (s : State) (a : Nat) (rest : List Turn) (ag : Agent) (w : Word) (jobs : List Job),
    s.cfg.admitted = true → s.turns = .agent a :: rest → s.agents[a]? = some ag → ag.phase = .idle →
    ag.jobs = .poll true :: jobs → ag.last = some w → opndOf w = 0x01 →
    step s = step { s with agents := s.agents.modify a (fun g => { g with jobs := jobs }) })

/-! ### Encoding -/

/-- R54, R59, R60, R61: what every word with a payload of the right length decodes to. -/
def Obligations.EveryWordClassified : Prop :=
  ∀ (w : Word) (p : List Byte), p.length = payloadLen (opcOf w) (opndOf w) →
    (decode ⟨w, p⟩ = .illegalOpcode ↔
      ((opcOf w).toNat = 0x00 ∨ (0x04 ≤ (opcOf w).toNat ∧ (opcOf w).toNat ≤ 0x0F) ∨
        (0x15 ≤ (opcOf w).toNat ∧ (opcOf w).toNat ≤ 0x1F) ∨ 0x24 ≤ (opcOf w).toNat)) ∧
    (decode ⟨w, p⟩ = .illegalOperand ↔
      ((opcOf w ∈ [(0x01 : Byte), 0x02, 0x03, 0x10, 0x12, 0x14, 0x22, 0x23] ∧ opndOf w ≠ 0x00) ∨
        (opcOf w = 0x11 ∧ (opndOf w).extractLsb' 1 7 ≠ 0))) ∧
    ((∃ i, decode ⟨w, p⟩ = .legal i) ↔
      ((opcOf w ∈ [(0x01 : Byte), 0x02, 0x03, 0x10, 0x12, 0x14, 0x22, 0x23] ∧ opndOf w = 0x00) ∨
        (opcOf w = 0x11 ∧ (opndOf w).extractLsb' 1 7 = 0) ∨ opcOf w ∈ [(0x13 : Byte), 0x20, 0x21]))

/-- R54, R55: decode of encode is the instruction, for every well-formed instruction. -/
def Obligations.DecodeOfEncode : Prop :=
  ∀ i : Instr, i.wellFormed = true → decode (encode i) = .legal i

/-- R50, R53: encode of decode is the command, and only well-formed instructions are decoded. -/
def Obligations.EncodeOfDecode : Prop :=
  ∀ (c : Command) (i : Instr), decode c = .legal i → encode i = c ∧ i.wellFormed = true

/-- The words of R62, written out, decode to their commands. -/
def Obligations.WrittenWordsDecode : Prop :=
  decode ⟨0x0100, []⟩ = .legal .acquire ∧ decode ⟨0x0200, []⟩ = .legal .release ∧
  decode ⟨0x0300, []⟩ = .legal .readErr ∧ decode ⟨0x1000, []⟩ = .legal .reset ∧
  decode ⟨0x1101, []⟩ = .legal (.writeBit 1) ∧ decode ⟨0x1200, []⟩ = .legal .readBit ∧
  decode ⟨0x13A5, []⟩ = .legal (.writeByte 0xA5) ∧ decode ⟨0x1400, []⟩ = .legal .readByte ∧
  decode ⟨0x201C, [0xBC]⟩ = .legal (.crc8Step 0x1C 0xBC) ∧
  decode ⟨0x2102, [0x02, 0x1C]⟩ = .legal (.crc8Compute [0x02, 0x1C]) ∧
  decode ⟨0x2200, [0x02, 0x1C, 0xB8, 0x01, 0x00, 0x00, 0x00, 0xA2]⟩ =
    .legal (.crc8CheckRom [0x02, 0x1C, 0xB8, 0x01, 0x00, 0x00, 0x00, 0xA2]) ∧
  decode ⟨0x2300, [0x50, 0x05, 0x4B, 0x46, 0x7F, 0xFF, 0x0C, 0x10, 0x1C]⟩ =
    .legal (.crc8CheckScratchpad [0x50, 0x05, 0x4B, 0x46, 0x7F, 0xFF, 0x0C, 0x10, 0x1C])

/-- R55: the payload length. -/
def Obligations.PayloadLengthByOpcode : Prop :=
  ∀ opc opnd : Byte,
    payloadLen opc opnd =
      if opc = 0x20 then 1 else if opc = 0x21 then opnd.toNat else if opc = 0x22 then 8 else if opc = 0x23 then 9 else 0

/-- R51: a byte stream carries `OPC`, `OPND` and the payload in order, and reading it gives the command back and leaves
what follows. A response is carried `STATUS` first, then `VALUE`. -/
def Obligations.ByteStreamReadsBack : Prop :=
  (∀ (c : Command) (rest : List Byte), c.payload.length = payloadLen (opcOf c.word) (opndOf c.word) →
    c.toBytes = c.word.extractLsb' 8 8 :: c.word.extractLsb' 0 8 :: c.payload ∧
    decodeBytes (c.toBytes ++ rest) = some (decode c, rest)) ∧
  (∀ (status : Status) (value : Byte), responseBytes (responseWord status value) = [status.code, value])

/-! ### Single-step commands -/

/-- R74: READ_ERR responds `(OK, ERR)` in one step and changes nothing else, whatever the guard. Model's readings: how
steps are counted (logs 1, 2), the fields `seq` and `last` (logs 11, 12). -/
def Obligations.ReadErrReturnsErr : Prop :=
  ∀ s : State, Idle s →
    exec .readErr s = .next { s with
      hist := histWith s [.respond .ok s.err], agents := agentsAfter s .ok s.err }

/-- R86, R92: CRC8_STEP responds with `T[acc ⊕ data]` in one step and changes nothing else. Model's readings: how steps
are counted (logs 1, 2), the fields `seq` and `last` (logs 11, 12). -/
def Obligations.Crc8StepReturnsEntry : Prop :=
  ∀ (s : State) (data acc : Byte), Idle s →
    exec (.crc8Step data acc) s = .next { s with
      hist := histWith s [.respond .ok (s.cfg.crcEntry (acc ^^^ data))],
      agents := agentsAfter s .ok (s.cfg.crcEntry (acc ^^^ data)) }

/-- R87: a sequence is folded left to right, the first byte first. -/
def Obligations.Crc8FoldsLeftToRight : Prop :=
  ∀ (c : Config) (seed b : Byte) (bs : List Byte),
    crc8 c seed [] = seed ∧ crc8 c seed (b :: bs) = crc8 c (c.crcEntry (seed ^^^ b)) bs ∧
    crc8 c seed (bs ++ [b]) = c.crcEntry (crc8 c seed bs ^^^ b)

/-- R93: CRC8_COMPUTE responds with `crc8(0, bytes)` in one step, for 0 to 255 bytes, and changes nothing else. Model's
readings: how steps are counted (logs 1, 2), the fields `seq` and `last` (logs 11, 12). -/
def Obligations.Crc8ComputeReturnsCrc : Prop :=
  ∀ (s : State) (bytes : List Byte), Idle s → bytes.length ≤ 255 →
    exec (.crc8Compute bytes) s = .next { s with
      hist := histWith s [.respond .ok (crc8 s.cfg 0 bytes)],
      agents := agentsAfter s .ok (crc8 s.cfg 0 bytes) }

/-- R88, R89, R94: CRC8_CHECK_ROM's `VALUE` has bit 0 `valid`, bit 1 `crc_ok`, bit 2 `family_ok` and bits 7:3 zero.
Model's readings: how steps are counted (logs 1, 2), the fields `seq` and `last` (logs 11, 12). -/
def Obligations.CheckRomReportsThreeBits : Prop :=
  ∀ (s : State) (f s1 s2 s3 s4 s5 s6 crc : Byte), Idle s →
    ∃ v : Byte,
      exec (.crc8CheckRom [f, s1, s2, s3, s4, s5, s6, crc]) s = .next { s with
        hist := histWith s [.respond .ok v], agents := agentsAfter s .ok v } ∧
      v.getLsbD 1 = decide (crc8 s.cfg 0 [f, s1, s2, s3, s4, s5, s6] = crc) ∧
      v.getLsbD 2 = decide (f ≠ 0x00) ∧
      v.getLsbD 0 = (v.getLsbD 1 && v.getLsbD 2) ∧
      v.extractLsb' 3 5 = 0

/-- R90, R95: CRC8_CHECK_SCRATCHPAD's `VALUE` is 1 if the CRC of the first 8 bytes is the ninth, else 0. Model's
readings: how steps are counted (logs 1, 2), the fields `seq` and `last` (logs 11, 12). -/
def Obligations.CheckScratchpadReportsValidity : Prop :=
  ∀ (s : State) (b0 b1 b2 b3 b4 b5 b6 b7 crc : Byte), Idle s →
    ∃ v : Byte,
      exec (.crc8CheckScratchpad [b0, b1, b2, b3, b4, b5, b6, b7, crc]) s = .next { s with
        hist := histWith s [.respond .ok v], agents := agentsAfter s .ok v } ∧
      v = if crc8 s.cfg 0 [b0, b1, b2, b3, b4, b5, b6, b7] = crc then 0x01 else 0x00

/-- R56: a CRC command whose list has a length that no command has is refused (that `exec` says so is the model's
choice, log 16). -/
def Obligations.IllFormedCrcCommandRefused : Prop :=
  ∀ (s : State) (i : Instr), i.wellFormed = false → exec i s = .refused .payloadLength

/-- R96: appending a sequence's CRC8 gives 0x00, for every table with `T[0]` = 0. -/
def Obligations.CrcResidueIsZero : Prop :=
  ∀ (c : Config) (s : List Byte), c.crcEntry 0 = 0 → crc8 c 0 (s ++ [crc8 c 0 s]) = 0x00

/-- 42_crc8.md section 4, with the default table (PRESUMED, log 8): the table is linear, every single-bit change of a
sequence changes its CRC8, and a scratchpad that passed fails after a change of one bit of bytes 0 to 7. -/
def Obligations.SingleBitErrorsDetected : Prop :=
  (∀ x y : Byte, Config.default.crcEntry (x ^^^ y) = Config.default.crcEntry x ^^^ Config.default.crcEntry y) ∧
  (∀ (bs : List Byte) (k : Nat) (j : Fin 8), k < bs.length →
    crc8 Config.default 0 (bs.modify k (fun b => b ^^^ (1#8 <<< j.val))) ≠ crc8 Config.default 0 bs) ∧
  (∀ (sp : List Byte) (k : Nat) (j : Fin 8), sp.length = 9 → k < 8 → scratchpadOk Config.default sp = true →
    scratchpadOk Config.default (sp.modify k (fun b => b ^^^ (1#8 <<< j.val))) = false)

/-! ### The guard -/

/-- R65, R72: ACQUIRE with the guard free or its own takes one token: `Inc`, `Enter` if it found `COUNT` = 0, and the
response 0x0000; nothing else changes. Model's readings: how steps are counted (logs 1, 2), the fields `seq` and `last`
(logs 11, 12). -/
def Obligations.AcquireTakesAToken : Prop :=
  ∀ s : State, Idle s → GuardOpen s → s.count ≠ s.cfg.maxCount →
    ∃ s1, exec .acquire s = .next s1 ∧
      runAlone (if s.count = 0 then 2 else 1) .acquire s1 = .next { s with
        count := s.count + 1
        region := if s.count = 0 then true else s.region
        owner := if s.count = 0 then some s.active else s.owner
        hist := histWith s ((if s.count = 0 then [.inc 0, .enter] else [.inc s.count]) ++ [.respond .ok 0x00])
        agents := agentsAfter s .ok 0x00 }

/-- R66, R73: RELEASE with the guard its own gives back one token: `Dec`, `Exit` if `COUNT` became 0, and the response
0x0000; nothing else changes. Model's readings: how steps are counted (logs 1, 2), the fields `seq` and `last` (logs 11,
12). -/
def Obligations.ReleaseGivesBackAToken : Prop :=
  ∀ s : State, Idle s → GuardOpen s → s.count ≠ 0 →
    ∃ s1, exec .release s = .next s1 ∧
      runAlone (if s.count = 1 then 2 else 1) .release s1 = .next { s with
        count := s.count - 1
        region := if s.count = 1 then false else s.region
        owner := if s.count = 1 then none else s.owner
        hist := histWith s ((if s.count = 1 then [.dec 0, .exit] else [.dec (s.count - 1)]) ++ [.respond .ok 0x00])
        agents := agentsAfter s .ok 0x00 }

/-- R69, R99: RELEASE at `COUNT` = 0 sets `ERR.UNF`, takes no exit step, responds `(GUARD_UNDERFLOW, 0x00)` and is
recorded; nothing else changes. Model's readings: how steps are counted (logs 1, 2), the fields `seq` and `last` (logs
11, 12), the moment the `ERR` bit is set (log 18). -/
def Obligations.ReleaseUnderflows : Prop :=
  ∀ s : State, Idle s → GuardOpen s → s.count = 0 →
    ∃ s1, exec .release s = .next s1 ∧
      exec .release s1 = .next { s with
        err := s.err ||| 0x04
        hist := histWith s [.decUnderflow, .respond .guardUnderflow 0x00]
        faults := s.faults ++ [recordOf s 0x0200 .guardUnderflow]
        agents := agentsAfter s .guardUnderflow 0x00 }

/-- R68, R75, R99: ACQUIRE and every bus command at the top value set `ERR.OVF`, take no enter step and no line step,
respond `(GUARD_OVERFLOW, 0x00)` and are recorded; nothing else changes. Model's readings: how steps are counted (logs
1, 2), the fields `seq` and `last` (logs 11, 12), the moment the `ERR` bit is set (log 18). -/
def Obligations.AcquireOverflows : Prop :=
  ∀ (s : State) (i : Instr), acquires i = true → Idle s → GuardOpen s → s.count = s.cfg.maxCount →
    ∃ s1, exec i s = .next s1 ∧
      exec i s1 = .next { s with
        err := s.err ||| 0x08
        hist := histWith s [.incOverflow, .respond .guardOverflow 0x00]
        faults := s.faults ++ [recordOf s i.word .guardOverflow]
        agents := agentsAfter s .guardOverflow 0x00 }

/-- R67, R101: the first guard step of any guarded command while another agent is the owner raises `GuardContention`
before any state of the block changes: only the event, the record and `FAULTED` are new. Model's readings: the issue is
the first step (log 1), the site in the record (logs 10, 11). -/
def Obligations.ContentionStopsTheNewcomer : Prop :=
  ∀ (s : State) (i : Instr) (o : Nat), guarded i = true → Idle s → s.owner = some o → o ≠ s.active →
    exec i s = .next { s with
      hist := histWith s [.fault .guardContention]
      faults := s.faults ++ [recordOf s i.word .guardContention]
      agents := s.agents.modify s.active (fun ag => { ag with phase := .faulted, seq := ag.seq + 1 }) }

/-- R67, R106: the same at every increment and decrement step inside a command, nested ones included. Model's readings:
the issue is the first step (log 1), the site in the record (logs 10, 11). -/
def Obligations.ContentionStopsAtEveryGuardStep : Prop :=
  ∀ (s : State) (f : Flight) (o : Nat), s.phaseOf s.active = some (.running f) → flightCounts f = true →
    s.owner = some o → o ≠ s.active →
    exec f.instr s = .next { s with
      hist := histWith s [.fault .guardContention]
      faults := s.faults ++ [recordOf s f.instr.word .guardContention]
      agents := s.agents.modify s.active (fun ag => { ag with phase := .faulted, seq := ag.seq + 1 }) }

/-- R28 (a), R65: counting and entering are two steps. After the first step of a 0→1 acquire `COUNT` is 1, `OWNER` is
set and `REGION` is still 0; the second step enters. Model's readings: how steps are counted (logs 1, 2), the fields
`seq` and `last` (logs 11, 12). -/
def Obligations.EnterWindowIsOpenForOneStep : Prop :=
  ∀ (s : State) (i : Instr), acquires i = true → Idle s → s.owner = none → s.count = 0 → s.region = false →
    s.cfg.maxCount ≠ 0 →
    ∃ s1 s2, exec i s = .next s1 ∧ s1.count = 1 ∧ s1.region = false ∧ s1.owner = some s.active ∧
      exec i s1 = .next s2 ∧ s2.count = 1 ∧ s2.region = true ∧ s2.owner = some s.active

/-- R28 (b), R66: after the decrement step of a 1→0 release, of RELEASE as of every decrement step inside a command,
`COUNT` is 0 and `REGION` is still 1; the second step exits and ends the epoch. Model's readings: how steps are counted
(logs 1, 2), the fields `seq` and `last` (logs 11, 12). -/
def Obligations.ExitWindowIsOpenForOneStep : Prop :=
  ∀ (s : State) (i : Instr),
    ((i = .release ∧ Idle s) ∨
      ∃ f, s.phaseOf s.active = some (.running f) ∧ flightReleases f = true ∧ i = f.instr) →
    s.owner = some s.active → s.count = 1 → s.region = true →
    ∃ s1 s2, exec i s = .next s1 ∧ s1.count = 0 ∧ s1.region = true ∧ s1.owner = some s.active ∧
      exec i s1 = .next s2 ∧ s2.count = 0 ∧ s2.region = false ∧ s2.owner = none

/-- R70: nested ACQUIRE and RELEASE by an agent that holds `k` ≥ 1 tokens take `COUNT` to `k` + 1 and back, without an
enter or exit step, and `REGION` and `OWNER` stay. Model's readings: how steps are counted (logs 1, 2), the fields `seq`
and `last` (logs 11, 12). -/
def Obligations.ReentrancyKeepsTheRegion : Prop :=
  ∀ s : State, Idle s → s.owner = some s.active → s.count ≠ 0 → s.count ≠ s.cfg.maxCount →
    ∃ s1 s2 s3 s4, exec .acquire s = .next s1 ∧ exec .acquire s1 = .next s2 ∧
      exec .release s2 = .next s3 ∧ exec .release s3 = .next s4 ∧
      s1.count = s.count + 1 ∧ s2.count = s.count + 1 ∧ s3.count = s.count ∧ s4.count = s.count ∧
      s1.region = s.region ∧ s2.region = s.region ∧ s3.region = s.region ∧ s4.region = s.region ∧
      s1.owner = s.owner ∧ s2.owner = s.owner ∧ s3.owner = s.owner ∧ s4.owner = s.owner

/-! ### The bus -/

/-- R75, R76, R79: WRITE_BIT's whole run: its events, the response 0x0000, the token given back and the line released;
nothing else changes. Model's readings: how steps are counted (logs 1, 2), the fields `seq` and `last` (logs 11, 12). -/
def Obligations.WriteBitSendsOneSlot : Prop :=
  ∀ (s : State) (bit : Bit), Idle s → GuardOpen s → s.count ≠ s.cfg.maxCount →
    ∃ s1, exec (.writeBit bit) s = .next s1 ∧
      runAlone (bracketEvents s.count (writeSlotEvents bit)).length (.writeBit bit) s1 = .next { s with
        lineDrive := .released
        region := if s.count = 0 then false else s.region
        owner := if s.count = 0 then none else s.owner
        hist := histWith s (bracketEvents s.count (writeSlotEvents bit) ++ [.respond .ok 0x00])
        agents := agentsAfter s .ok 0x00 }

/-- R75, R77, R82: READ_BIT's whole run: one sample of the released line, and that level as `VALUE`. Model's readings:
how steps are counted (logs 1, 2), the fields `seq` and `last` (logs 11, 12). -/
def Obligations.ReadBitReturnsTheSample : Prop :=
  ∀ s : State, Idle s → GuardOpen s → s.count ≠ s.cfg.maxCount →
    ∃ s1, exec .readBit s = .next s1 ∧
      runAlone (bracketEvents s.count (readSlotEvents s.drawLevel)).length .readBit s1 = .next { s.useDraw with
        lineDrive := .released
        region := if s.count = 0 then false else s.region
        owner := if s.count = 0 then none else s.owner
        hist := histWith s
          (bracketEvents s.count (readSlotEvents s.drawLevel) ++ [.respond .ok (s.drawLevel.setWidth 8)])
        agents := agentsAfter s .ok (s.drawLevel.setWidth 8) }

/-- R38, R75, R80: WRITE_BYTE's whole run: eight slots, bit 0 first, each in its own nested token and followed by
`Delay(T_IBD)`; the response 0x0000; nothing else changes. Model's readings: how steps are counted (logs 1, 2), the
fields `seq` and `last` (logs 11, 12). -/
def Obligations.WriteByteSendsEightSlots : Prop :=
  ∀ (s : State) (byte : Byte), Idle s → GuardOpen s → s.count ≠ s.cfg.maxCount → s.count + 1 ≠ s.cfg.maxCount →
    ∃ s1, exec (.writeByte byte) s = .next s1 ∧
      runAlone (bracketEvents s.count (writeByteEvents (s.count + 1) byte)).length (.writeByte byte) s1 =
        .next { s with
          lineDrive := .released
          region := if s.count = 0 then false else s.region
          owner := if s.count = 0 then none else s.owner
          hist := histWith s (bracketEvents s.count (writeByteEvents (s.count + 1) byte) ++ [.respond .ok 0x00])
          agents := agentsAfter s .ok 0x00 }

/-- R38, R75, R83: READ_BYTE's whole run: eight samples, and a byte whose bit `i` is sample `i`. Model's readings: how
steps are counted (logs 1, 2), the fields `seq` and `last` (logs 11, 12). -/
def Obligations.ReadByteCollectsEightSamples : Prop :=
  ∀ s : State, Idle s → GuardOpen s → s.count ≠ s.cfg.maxCount → s.count + 1 ≠ s.cfg.maxCount →
    ∃ (s1 : State) (v : Byte),
      (∀ i : Fin 8, v.extractLsb' i.val 1 = levelAt s i.val) ∧
      exec .readByte s = .next s1 ∧
      runAlone
        (bracketEvents s.count (readByteEvents (s.count + 1) ((List.range 8).map (levelAt s)))).length .readByte s1 =
        .next { State.useDraw^[8] s with
          lineDrive := .released
          region := if s.count = 0 then false else s.region
          owner := if s.count = 0 then none else s.owner
          hist := histWith s
            (bracketEvents s.count (readByteEvents (s.count + 1) ((List.range 8).map (levelAt s))) ++ [.respond .ok v])
          agents := agentsAfter s .ok v }

/-- R75, R78 (b): RESET with presence on sample `j` and `w` low wait samples before the line is high: the whole run, the
response 0x0001, and the line released. Model's readings: how steps are counted (logs 1, 2), the fields `seq` and `last`
(logs 11, 12). -/
def Obligations.ResetFindsPresence : Prop :=
  ∀ (s : State) (j w : Nat), Idle s → GuardOpen s → s.count ≠ s.cfg.maxCount → j < s.cfg.nPp →
    (∀ m, m < j → levelAt s m = 1) → levelAt s j = 0 → (∀ m, m < w → levelAt s (j + 1 + m) = 0) →
    levelAt s (j + 1 + w) = 1 →
    ∃ s1, exec .reset s = .next s1 ∧
      runAlone (bracketEvents s.count (pulseEvents ++ presentEvents j w)).length .reset s1 =
        .next { State.useDraw^[j + w + 2] s with
          lineDrive := .released
          region := if s.count = 0 then false else s.region
          owner := if s.count = 0 then none else s.owner
          hist := histWith s (bracketEvents s.count (pulseEvents ++ presentEvents j w) ++ [.respond .ok 0x01])
          agents := agentsAfter s .ok 0x01 }

/-- R75, R78 (a), R103: RESET without a device: `N_PP` samples that read 1, and the response 0x0000, which is a value
and no error. Model's readings: how steps are counted (logs 1, 2), the fields `seq` and `last` (logs 11, 12). -/
def Obligations.ResetFindsNobody : Prop :=
  ∀ s : State, Idle s → GuardOpen s → s.count ≠ s.cfg.maxCount → (∀ m, m < s.cfg.nPp → levelAt s m = 1) →
    ∃ s1, exec .reset s = .next s1 ∧
      runAlone (bracketEvents s.count (pulseEvents ++ absentEvents s.cfg.nPp)).length .reset s1 =
        .next { State.useDraw^[s.cfg.nPp] s with
          lineDrive := .released
          region := if s.count = 0 then false else s.region
          owner := if s.count = 0 then none else s.owner
          hist := histWith s (bracketEvents s.count (pulseEvents ++ absentEvents s.cfg.nPp) ++ [.respond .ok 0x00])
          agents := agentsAfter s .ok 0x00 }

/-- R104 (a): RESET's wait for the end of the presence pulse has no bound: after any number `n` of low samples the
command is still waiting, with its token and the line as they were. -/
def Obligations.ResetWaitHasNoBound : Prop :=
  ∀ (s : State) (n : Nat), s.phaseOf s.active = some (.running (.reset (.body .waitSample))) →
    s.lineDrive = .released → (∀ m, m < n → levelAt s m = 0) →
    runAlone (2 * n) .reset s = .next { State.useDraw^[n] s with
      hist := histWith s (List.replicate n [EventKind.sample 0, .delay .wh]).flatten }

/-- R81: a nested overflow at bit 0 stops a byte command before its slot; the outer token is given back and the response
is `(GUARD_OVERFLOW, 0x00)`. Model's readings: how steps are counted (logs 1, 2), the fields `seq` and `last` (logs 11,
12), the moment the `ERR` bit is set (log 18). -/
def Obligations.NestedOverflowStopsAByteCommand : Prop :=
  ∀ (s : State) (i : Instr), (i = .readByte ∨ ∃ byte, i = .writeByte byte) → Idle s → GuardOpen s →
    s.count + 1 = s.cfg.maxCount →
    ∃ s1, exec i s = .next s1 ∧
      runAlone (bracketEvents s.count [.incOverflow]).length i s1 = .next { s with
        err := s.err ||| 0x08
        region := if s.count = 0 then false else s.region
        owner := if s.count = 0 then none else s.owner
        hist := histWith s (bracketEvents s.count [.incOverflow] ++ [.respond .guardOverflow 0x00])
        faults := s.faults ++ [recordOf s i.word .guardOverflow]
        agents := agentsAfter s .guardOverflow 0x00 }

/-! ### Frames -/

/-- R17, R18, R20, R24, R25, R26, R27, R46, R65, R66, R100: a step of any command appends exactly one event of the active
agent, and that event says which registers changed; every other agent, the parameters and the turns are unchanged.
Model's readings: how steps are counted (logs 1, 2), the fields `seq` and `last` (logs 11, 12), the moment the `ERR` bit
is set: in the guard step, as R65 and R66 have it, while R21 says when the command responds (DEDUCED, log 18). -/
def Obligations.OneEventPerStepAndItsFrame : Prop :=
  ∀ (i : Instr) (s t : State), exec i s = .next t →
    ∃ k : EventKind, t.hist = s.hist ++ [⟨s.active, s.seqOf s.active, k⟩] ∧
      t.cfg = s.cfg ∧ t.active = s.active ∧ t.turns = s.turns ∧ t.turnCount = s.turnCount ∧
      t.agents.length = s.agents.length ∧ (∀ b, b ≠ s.active → t.agents[b]? = s.agents[b]?) ∧
      ((∀ n, k ≠ .inc n) → (∀ n, k ≠ .dec n) → t.count = s.count) ∧
      (k ≠ .enter → k ≠ .exit → t.region = s.region) ∧
      (k ≠ .driveLow → k ≠ .lineRelease → t.lineDrive = s.lineDrive) ∧
      (k ≠ .incOverflow → k ≠ .decUnderflow → t.err = s.err) ∧
      (k ≠ .inc 0 → k ≠ .exit → t.owner = s.owner) ∧
      ((∀ l, k ≠ .sample l) → t.draws = s.draws ∧ t.drawCount = s.drawCount) ∧
      ((∀ q v, k = .respond q v → q = .ok) → (∀ q, k ≠ .fault q) → t.faults = s.faults)

/-- R74, R91: READ_ERR and the CRC commands take no guard step and no line step: they change only `HIST` and their own
agent, which is `IDLE` again. Model's readings: how steps are counted (logs 1, 2), the fields `seq` and `last` (logs 11,
12). -/
def Obligations.SingleStepCommandsTouchNothing : Prop :=
  ∀ (i : Instr) (s t : State), guarded i = false → exec i s = .next t →
    ∃ v : Byte, t = { s with hist := histWith s [.respond .ok v], agents := agentsAfter s .ok v }

/-- R34, R72, R73: ACQUIRE and RELEASE take no line step: the event of each of their steps is that of no line primitive,
no `Delay` either, and the line and the draws are unchanged. Model's readings: how steps are counted (logs 1, 2), the
site of the event (log 11). -/
def Obligations.GuardCommandsLeaveTheLine : Prop :=
  ∀ (i : Instr) (s t : State), i = .acquire ∨ i = .release → exec i s = .next t →
    t.lineDrive = s.lineDrive ∧ t.draws = s.draws ∧ t.drawCount = s.drawCount ∧
      ∃ k : EventKind, t.hist = s.hist ++ [⟨s.active, s.seqOf s.active, k⟩] ∧
        k ≠ .driveLow ∧ k ≠ .lineRelease ∧ (∀ name, k ≠ .delay name) ∧ (∀ l, k ≠ .sample l)

/-- R22: only a block reset clears `ERR`; a bit once set stays set. -/
def Obligations.ErrIsSticky : Prop :=
  ∀ s t : State, step s = .next t →
    (s.nextTurn = .blockReset ∧ t.err = 0x00) ∨ (s.nextTurn ≠ .blockReset ∧ t.err &&& s.err = s.err)

/-- R27, R100: a step adds at most one fault record and removes none, but for the block reset. -/
def Obligations.FaultRecordsOnlyGrow : Prop :=
  ∀ s t : State, step s = .next t → s.nextTurn ≠ .blockReset →
    ∃ new : List FaultRecord, t.faults = s.faults ++ new ∧ new.length ≤ 1

/-- R100: a command that responds with a nonzero `STATUS` adds a record of its agent, its word and its status, and its
agent is `IDLE` again. The word is that of the command in flight, or of the command the idle agent issues. -/
def Obligations.StatusErrorsAreRecorded : Prop :=
  ∀ (s t : State) (a q : Nat) (st : Status) (v : Byte), step s = .next t →
    t.hist = s.hist ++ [⟨a, q, .respond st v⟩] → st ≠ .ok →
    ∃ w k, st.faultKind = some k ∧ t.faults = s.faults ++ [⟨a, q, w, k⟩] ∧ t.phaseOf a = some .idle ∧
      ((∃ f, s.phaseOf a = some (.running f) ∧ w = f.instr.word) ∨
        ∃ ag c jobs, s.agents[a]? = some ag ∧ ag.phase = .idle ∧ nextCommand ag.last ag.jobs = some (c, jobs) ∧
          w = c.word)

/-- R19, R26, R27, R111: nothing reads `REGION`, `HIST` or `FAULT`: with other values of them the machine takes the same
step, with the same effect on everything else. -/
def Obligations.RegionHistAndFaultAreNeverRead : Prop :=
  ∀ (s t : State) (r : Bool) (h : List Event) (fs : List FaultRecord), step s = .next t →
    ∃ (r' : Bool) (h' : List Event) (fs' : List FaultRecord),
      step { s with region := r, hist := h, faults := fs } =
        .next { t with region := r', hist := h', faults := fs' }

/-! ### Invariants -/

/-- The block reset meets the invariant, for every admitted configuration (R32, R125); and so does `State.reset`, whose
configuration has values the model chose for the OPEN parameters (DESIGN CHOICE, log 7). -/
def Obligations.BlockResetMeetsTheInvariant : Prop :=
  (∀ c : Config, c.admitted = true → Inv (State.resetWith c)) ∧ Inv State.reset

/-- R17, R18, R21, R25, R28: every step keeps the invariant of the guard and the line. -/
def Obligations.StepKeepsTheInvariant : Prop :=
  ∀ s t : State, Inv s → step s = .next t → Inv t

/-- R47: in a state that meets the invariant, at most one agent is at a position that holds the guard. -/
def Obligations.OnlyOneAgentHoldsTheGuard : Prop :=
  ∀ (s : State) (a b : Nat) (p q : Phase), Inv s → s.phaseOf a = some p → s.phaseOf b = some q →
    phaseHold p ≠ .free → phaseHold q ≠ .free → a = b

/-- R84, R108: in a state that meets the invariant, the line is driven only inside a slot or reset pulse of the owner;
with every agent `IDLE` or `FAULTED` it is released. -/
def Obligations.LineIsReleasedBetweenCommands : Prop :=
  ∀ s : State, Inv s →
    (s.lineDrive = .driven → ∃ a f, s.owner = some a ∧ s.phaseOf a = some (.running f) ∧ flightDrive f = .driven) ∧
    ((∀ ag ∈ s.agents, ag.phase = .idle ∨ ag.phase = .faulted) → s.lineDrive = .released)

/-- R35: in a state that meets the invariant, every sample is of a released line and returns the draw. -/
def Obligations.EverySampleIsADraw : Prop :=
  ∀ (i : Instr) (s t : State) (l : Bit), Inv s → exec i s = .next t →
    t.hist = s.hist ++ [⟨s.active, s.seqOf s.active, .sample l⟩] →
    s.lineDrive = .released ∧ l = s.drawLevel ∧ t.draws = s.useDraw.draws ∧ t.drawCount = s.useDraw.drawCount

/-- R26, R65, R66, R34: `HIST` accounts for `COUNT`, `REGION`, `LINE_DRIVE` and `OWNER`: replaying it from reset gives
them, and every step keeps that. -/
def Obligations.HistAccountsForTheRegisters : Prop :=
  (∀ c : Config, HistAgrees (State.resetWith c)) ∧
  (∀ s t : State, HistAgrees s → step s = .next t → HistAgrees t)

/-- R100, R122 (d): a nonzero `ERR` has a fault record, or a command in flight that will add one; every step from a state
that meets the invariant keeps that, so a quiet state with no record has `ERR` = 0x00. Model's reading: the moments the `ERR` bit is set and the record
is added (DEDUCED, log 18). -/
def Obligations.ErrIsAccountedFor : Prop :=
  (∀ s t : State, Inv s → ErrRecorded s → step s = .next t → ErrRecorded t) ∧
  (∀ s : State, ErrRecorded s → Success s → CleanEntry s)

/-- R57: the response word has the `STATUS` code in bits 15:8 and `VALUE` in bits 7:0, and `VALUE` is 0x00 whenever
`STATUS` is not `OK`: every step keeps that of the results fixed so far, and so every response has it. The word is what
the agent holds as its last response (log 12). -/
def Obligations.ErrorResponsesCarryNoValue : Prop :=
  (∀ s t : State, ErrorsHaveNoValue s → step s = .next t → ErrorsHaveNoValue t) ∧
  (∀ (s t : State) (a q : Nat) (st : Status) (v : Byte), ErrorsHaveNoValue s → step s = .next t →
    t.hist = s.hist ++ [⟨a, q, .respond st v⟩] → st ≠ .ok → v = 0x00) ∧
  (∀ (s t : State) (a q : Nat) (st : Status) (v : Byte), step s = .next t →
    t.hist = s.hist ++ [⟨a, q, .respond st v⟩] →
    ∃ ag w, t.agents[a]? = some ag ∧ ag.last = some w ∧ w.extractLsb' 0 8 = v ∧
      w.extractLsb' 8 8 =
        match st with
        | .ok => 0x00
        | .illegalOpcode => 0x01
        | .illegalOperand => 0x02
        | .guardUnderflow => 0x03
        | .guardOverflow => 0x04)

/-! ### Timing and the assembler -/

/-- R132 (informative; whole microseconds are the model's choice, log 25): the delays of the events that a whole run of
each command appends add up as the table says: for ACQUIRE and RELEASE whatever `COUNT` is, for the bus commands that
take their tokens, for RESET by its levels. Model's readings: how steps are counted (logs 1, 2). -/
def Obligations.NominalDurations : Prop :=
  ∀ s : State, s.cfg.admitted = true → Idle s →
    (∀ i : Instr, guarded i = false → i.wellFormed = true → ∃ ks t, RunsTo i s ks t ∧ delayTotal s.cfg ks = 0) ∧
    (GuardOpen s → ∀ i : Instr, i = .acquire ∨ i = .release → ∃ ks t, RunsTo i s ks t ∧ delayTotal s.cfg ks = 0) ∧
    (GuardOpen s → s.count ≠ s.cfg.maxCount →
      (∀ bit : Bit, ∃ ks t, RunsTo (.writeBit bit) s ks t ∧ delayTotal s.cfg ks = s.cfg.tSlot) ∧
      (∃ ks t, RunsTo .readBit s ks t ∧ delayTotal s.cfg ks = s.cfg.tRdLow + s.cfg.tRdRest) ∧
      ((∀ m, m < s.cfg.nPp → levelAt s m = 1) →
        ∃ ks t, RunsTo .reset s ks t ∧
          delayTotal s.cfg ks = s.cfg.tRstLow + s.cfg.tRstSettle + s.cfg.nPp * s.cfg.tPp) ∧
      (∀ j w : Nat, j < s.cfg.nPp → (∀ m, m < j → levelAt s m = 1) → levelAt s j = 0 →
        (∀ m, m < w → levelAt s (j + 1 + m) = 0) → levelAt s (j + 1 + w) = 1 →
        ∃ ks t, RunsTo .reset s ks t ∧
          delayTotal s.cfg ks = s.cfg.tRstLow + s.cfg.tRstSettle + j * s.cfg.tPp + w * s.cfg.tWh) ∧
      (s.count + 1 ≠ s.cfg.maxCount →
        (∀ byte : Byte, ∃ ks t, RunsTo (.writeByte byte) s ks t ∧
          delayTotal s.cfg ks = 8 * (s.cfg.tSlot + s.cfg.tIbd)) ∧
        (∃ ks t, RunsTo .readByte s ks t ∧
          delayTotal s.cfg ks = 8 * (s.cfg.tRdLow + s.cfg.tRdRest + s.cfg.tIbd))))

/-- R62: what the assembler makes of each row's operands in range: the word and the payload of the row. R62 rejects a
`WRITE_BIT` operand other than 0 or 1, an `imm8` outside 0 to 255, a list of the wrong length for `P8` or `P9`, and one
longer than 255 for `L`. That a number above 255 is rejected too as an operand of `CRC8_STEP` and in the lists of
`CRC8_COMPUTE`, `CRC8_CHECK_ROM` and `CRC8_CHECK_SCRATCHPAD` is not in R62: it is the model's choice (DESIGN CHOICE, log
26), because R53 makes each of them a byte. -/
def Obligations.AssemblerChecksOperands : Prop :=
  (assembleCommand "ACQUIRE".toList [] = some [.command ⟨0x0100, []⟩] ∧
    assembleCommand "RELEASE".toList [] = some [.command ⟨0x0200, []⟩] ∧
    assembleCommand "READ_ERR".toList [] = some [.command ⟨0x0300, []⟩] ∧
    assembleCommand "RESET".toList [] = some [.command ⟨0x1000, []⟩] ∧
    assembleCommand "READ_BIT".toList [] = some [.command ⟨0x1200, []⟩] ∧
    assembleCommand "READ_BYTE".toList [] = some [.command ⟨0x1400, []⟩]) ∧
  (∀ n : Nat, assembleCommand "WRITE_BIT".toList [.num n] =
    if n < 2 then some [.command ⟨0x1100 ||| BitVec.ofNat 16 n, []⟩] else none) ∧
  (∀ n : Nat, assembleCommand "WRITE_BYTE".toList [.num n] =
    if n < 256 then some [.command ⟨0x1300 ||| BitVec.ofNat 16 n, []⟩] else none) ∧
  (∀ data acc : Nat, assembleCommand "CRC8_STEP".toList [.num data, .num acc] =
    if data < 256 ∧ acc < 256 then some [.command ⟨0x2000 ||| BitVec.ofNat 16 data, [BitVec.ofNat 8 acc]⟩]
    else none) ∧
  (∀ ns : List Nat, assembleCommand "CRC8_COMPUTE".toList [.list ns] =
    if ns.length ≤ 255 ∧ ∀ n ∈ ns, n < 256 then
      some [.command ⟨0x2100 ||| BitVec.ofNat 16 ns.length, ns.map (BitVec.ofNat 8)⟩]
    else none) ∧
  (∀ ns : List Nat, assembleCommand "CRC8_CHECK_ROM".toList [.list ns] =
    if ns.length = 8 ∧ ∀ n ∈ ns, n < 256 then some [.command ⟨0x2200, ns.map (BitVec.ofNat 8)⟩] else none) ∧
  (∀ ns : List Nat, assembleCommand "CRC8_CHECK_SCRATCHPAD".toList [.list ns] =
    if ns.length = 9 ∧ ∀ n ∈ ns, n < 256 then some [.command ⟨0x2300, ns.map (BitVec.ofNat 8)⟩] else none)
end

