-- ==== Sys2Proof/Laws/Decode.lean ====
section
/-! SUPPORT. The decoder's and the encoder's lemmas: the fields of a word, the opcode map, the payload length. -/

namespace Sys2Proof.Laws

/-- The bits of a word put together from its two bytes. -/
theorem getLsbD_word (a b : Byte) (k : Nat) :
    BitVec.getLsbD (w := 16) (a ++ b) k = if k < 8 then b.getLsbD k else a.getLsbD (k - 8) :=
  BitVec.getLsbD_append

/-- `OPC` of a word put together from its two bytes (R50). -/
theorem opcOf_append (a b : Byte) : opcOf (a ++ b) = a := by
  apply BitVec.eq_of_getLsbD_eq
  intro k hk
  rw [opcOf, BitVec.getLsbD_extractLsb', getLsbD_word]
  simp [hk]

/-- `OPND` of a word put together from its two bytes (R50). -/
theorem opndOf_append (a b : Byte) : opndOf (a ++ b) = b := by
  apply BitVec.eq_of_getLsbD_eq
  intro k hk
  rw [opndOf, BitVec.getLsbD_extractLsb', getLsbD_word]
  simp [hk]

/-- A word is its two bytes put together (R50). -/
theorem opc_append_opnd (w : Word) : (opcOf w ++ opndOf w : Word) = w := by
  apply BitVec.eq_of_getLsbD_eq
  intro k hk
  rw [getLsbD_word, opcOf, opndOf, BitVec.getLsbD_extractLsb', BitVec.getLsbD_extractLsb']
  split
  · rename_i h; simp [h]
  · rename_i h; simp [show 8 + (k - 8) = k by omega, show k - 8 < 8 by omega]

/-- The `OPC` of an encoded command is its opcode's code (R50, R54). -/
theorem opcOf_word (i : Instr) : opcOf i.word = i.opcode.code := opcOf_append _ _

/-- The `OPND` of an encoded command is its operand byte (R50, R52). -/
theorem opndOf_word (i : Instr) : opndOf i.word = i.opnd := opndOf_append _ _

/-- Every opcode is read back from its code (R54). -/
theorem ofByte_code (o : Opcode) : Opcode.ofByte o.code = some o := by
  cases o <;> decide

/-- An opcode is read only from its own code (R54). -/
theorem code_of_ofByte {b : Byte} {o : Opcode} (h : Opcode.ofByte b = some o) : o.code = b := by
  simpa using List.find?_some h

/-- The payload length of an encoded command, by its opcode (R55). -/
theorem payloadLen_encode (i : Instr) :
    payloadLen (opcOf (encode i).word) (opndOf (encode i).word) =
      match i.opcode with
      | .crc8Step => 1
      | .crc8Compute => i.opnd.toNat
      | .crc8CheckRom => 8
      | .crc8CheckScratchpad => 9
      | _ => 0 := by
  simp only [encode, opcOf_word, opndOf_word, payloadLen, ofByte_code]
  cases i <;> rfl

end Sys2Proof.Laws
end

