-- ==== Sys2Proof/Laws/State.lean ====
section
/-! SUPPORT. One lemma per field of State for each named update, so that no proof unfolds a record update. -/

namespace Sys2Proof.Machine

variable (s : State)
/-! ### `modifyAgent` -/
@[simp] theorem State.modifyAgent_cfg (a : Nat) (f : Agent → Agent) : (s.modifyAgent a f).cfg = s.cfg := rfl
@[simp] theorem State.modifyAgent_count (a : Nat) (f : Agent → Agent) : (s.modifyAgent a f).count = s.count := rfl
@[simp] theorem State.modifyAgent_region (a : Nat) (f : Agent → Agent) : (s.modifyAgent a f).region = s.region := rfl
@[simp] theorem State.modifyAgent_lineDrive (a : Nat) (f : Agent → Agent) :
    (s.modifyAgent a f).lineDrive = s.lineDrive :=
  rfl
@[simp] theorem State.modifyAgent_err (a : Nat) (f : Agent → Agent) : (s.modifyAgent a f).err = s.err := rfl
@[simp] theorem State.modifyAgent_agents (a : Nat) (f : Agent → Agent) :
    (s.modifyAgent a f).agents = s.agents.modify a f :=
  rfl
@[simp] theorem State.modifyAgent_owner (a : Nat) (f : Agent → Agent) : (s.modifyAgent a f).owner = s.owner := rfl
@[simp] theorem State.modifyAgent_hist (a : Nat) (f : Agent → Agent) : (s.modifyAgent a f).hist = s.hist := rfl
@[simp] theorem State.modifyAgent_faults (a : Nat) (f : Agent → Agent) : (s.modifyAgent a f).faults = s.faults := rfl
@[simp] theorem State.modifyAgent_active (a : Nat) (f : Agent → Agent) : (s.modifyAgent a f).active = s.active := rfl
@[simp] theorem State.modifyAgent_turns (a : Nat) (f : Agent → Agent) : (s.modifyAgent a f).turns = s.turns := rfl
@[simp] theorem State.modifyAgent_turnCount (a : Nat) (f : Agent → Agent) :
    (s.modifyAgent a f).turnCount = s.turnCount :=
  rfl
@[simp] theorem State.modifyAgent_draws (a : Nat) (f : Agent → Agent) : (s.modifyAgent a f).draws = s.draws := rfl
@[simp] theorem State.modifyAgent_drawCount (a : Nat) (f : Agent → Agent) :
    (s.modifyAgent a f).drawCount = s.drawCount :=
  rfl

/-! ### `setPhase` -/
@[simp] theorem State.setPhase_cfg (a : Nat) (p : Phase) : (s.setPhase a p).cfg = s.cfg := rfl
@[simp] theorem State.setPhase_count (a : Nat) (p : Phase) : (s.setPhase a p).count = s.count := rfl
@[simp] theorem State.setPhase_region (a : Nat) (p : Phase) : (s.setPhase a p).region = s.region := rfl
@[simp] theorem State.setPhase_lineDrive (a : Nat) (p : Phase) : (s.setPhase a p).lineDrive = s.lineDrive := rfl
@[simp] theorem State.setPhase_err (a : Nat) (p : Phase) : (s.setPhase a p).err = s.err := rfl
@[simp] theorem State.setPhase_agents (a : Nat) (p : Phase) :
    (s.setPhase a p).agents = s.agents.modify a (fun ag => { ag with phase := p }) :=
  rfl
@[simp] theorem State.setPhase_owner (a : Nat) (p : Phase) : (s.setPhase a p).owner = s.owner := rfl
@[simp] theorem State.setPhase_hist (a : Nat) (p : Phase) : (s.setPhase a p).hist = s.hist := rfl
@[simp] theorem State.setPhase_faults (a : Nat) (p : Phase) : (s.setPhase a p).faults = s.faults := rfl
@[simp] theorem State.setPhase_active (a : Nat) (p : Phase) : (s.setPhase a p).active = s.active := rfl
@[simp] theorem State.setPhase_turns (a : Nat) (p : Phase) : (s.setPhase a p).turns = s.turns := rfl
@[simp] theorem State.setPhase_turnCount (a : Nat) (p : Phase) : (s.setPhase a p).turnCount = s.turnCount := rfl
@[simp] theorem State.setPhase_draws (a : Nat) (p : Phase) : (s.setPhase a p).draws = s.draws := rfl
@[simp] theorem State.setPhase_drawCount (a : Nat) (p : Phase) : (s.setPhase a p).drawCount = s.drawCount := rfl

/-! ### `setJobs` -/
@[simp] theorem State.setJobs_cfg (a : Nat) (jobs : List Job) : (s.setJobs a jobs).cfg = s.cfg := rfl
@[simp] theorem State.setJobs_count (a : Nat) (jobs : List Job) : (s.setJobs a jobs).count = s.count := rfl
@[simp] theorem State.setJobs_region (a : Nat) (jobs : List Job) : (s.setJobs a jobs).region = s.region := rfl
@[simp] theorem State.setJobs_lineDrive (a : Nat) (jobs : List Job) : (s.setJobs a jobs).lineDrive = s.lineDrive :=
  rfl
@[simp] theorem State.setJobs_err (a : Nat) (jobs : List Job) : (s.setJobs a jobs).err = s.err := rfl
@[simp] theorem State.setJobs_agents (a : Nat) (jobs : List Job) :
    (s.setJobs a jobs).agents = s.agents.modify a (fun ag => { ag with jobs := jobs }) :=
  rfl
@[simp] theorem State.setJobs_owner (a : Nat) (jobs : List Job) : (s.setJobs a jobs).owner = s.owner := rfl
@[simp] theorem State.setJobs_hist (a : Nat) (jobs : List Job) : (s.setJobs a jobs).hist = s.hist := rfl
@[simp] theorem State.setJobs_faults (a : Nat) (jobs : List Job) : (s.setJobs a jobs).faults = s.faults := rfl
@[simp] theorem State.setJobs_active (a : Nat) (jobs : List Job) : (s.setJobs a jobs).active = s.active := rfl
@[simp] theorem State.setJobs_turns (a : Nat) (jobs : List Job) : (s.setJobs a jobs).turns = s.turns := rfl
@[simp] theorem State.setJobs_turnCount (a : Nat) (jobs : List Job) : (s.setJobs a jobs).turnCount = s.turnCount :=
  rfl
@[simp] theorem State.setJobs_draws (a : Nat) (jobs : List Job) : (s.setJobs a jobs).draws = s.draws := rfl
@[simp] theorem State.setJobs_drawCount (a : Nat) (jobs : List Job) : (s.setJobs a jobs).drawCount = s.drawCount :=
  rfl

/-! ### `takeJob` -/
@[simp] theorem State.takeJob_cfg (a : Nat) (jobs : List Job) : (s.takeJob a jobs).cfg = s.cfg := rfl
@[simp] theorem State.takeJob_count (a : Nat) (jobs : List Job) : (s.takeJob a jobs).count = s.count := rfl
@[simp] theorem State.takeJob_region (a : Nat) (jobs : List Job) : (s.takeJob a jobs).region = s.region := rfl
@[simp] theorem State.takeJob_lineDrive (a : Nat) (jobs : List Job) : (s.takeJob a jobs).lineDrive = s.lineDrive :=
  rfl
@[simp] theorem State.takeJob_err (a : Nat) (jobs : List Job) : (s.takeJob a jobs).err = s.err := rfl
@[simp] theorem State.takeJob_agents (a : Nat) (jobs : List Job) :
    (s.takeJob a jobs).agents = s.agents.modify a (fun ag => { ag with jobs := jobs, last := none }) :=
  rfl
@[simp] theorem State.takeJob_owner (a : Nat) (jobs : List Job) : (s.takeJob a jobs).owner = s.owner := rfl
@[simp] theorem State.takeJob_hist (a : Nat) (jobs : List Job) : (s.takeJob a jobs).hist = s.hist := rfl
@[simp] theorem State.takeJob_faults (a : Nat) (jobs : List Job) : (s.takeJob a jobs).faults = s.faults := rfl
@[simp] theorem State.takeJob_active (a : Nat) (jobs : List Job) : (s.takeJob a jobs).active = s.active := rfl
@[simp] theorem State.takeJob_turns (a : Nat) (jobs : List Job) : (s.takeJob a jobs).turns = s.turns := rfl
@[simp] theorem State.takeJob_turnCount (a : Nat) (jobs : List Job) : (s.takeJob a jobs).turnCount = s.turnCount :=
  rfl
@[simp] theorem State.takeJob_draws (a : Nat) (jobs : List Job) : (s.takeJob a jobs).draws = s.draws := rfl
@[simp] theorem State.takeJob_drawCount (a : Nat) (jobs : List Job) : (s.takeJob a jobs).drawCount = s.drawCount :=
  rfl

/-! ### `log` -/
@[simp] theorem State.log_cfg (a : Nat) (k : EventKind) : (s.log a k).cfg = s.cfg := rfl
@[simp] theorem State.log_count (a : Nat) (k : EventKind) : (s.log a k).count = s.count := rfl
@[simp] theorem State.log_region (a : Nat) (k : EventKind) : (s.log a k).region = s.region := rfl
@[simp] theorem State.log_lineDrive (a : Nat) (k : EventKind) : (s.log a k).lineDrive = s.lineDrive := rfl
@[simp] theorem State.log_err (a : Nat) (k : EventKind) : (s.log a k).err = s.err := rfl
@[simp] theorem State.log_agents (a : Nat) (k : EventKind) : (s.log a k).agents = s.agents := rfl
@[simp] theorem State.log_owner (a : Nat) (k : EventKind) : (s.log a k).owner = s.owner := rfl
@[simp] theorem State.log_hist (a : Nat) (k : EventKind) : (s.log a k).hist = s.hist ++ [⟨a, s.seqOf a, k⟩] := rfl
@[simp] theorem State.log_faults (a : Nat) (k : EventKind) : (s.log a k).faults = s.faults := rfl
@[simp] theorem State.log_active (a : Nat) (k : EventKind) : (s.log a k).active = s.active := rfl
@[simp] theorem State.log_turns (a : Nat) (k : EventKind) : (s.log a k).turns = s.turns := rfl
@[simp] theorem State.log_turnCount (a : Nat) (k : EventKind) : (s.log a k).turnCount = s.turnCount := rfl
@[simp] theorem State.log_draws (a : Nat) (k : EventKind) : (s.log a k).draws = s.draws := rfl
@[simp] theorem State.log_drawCount (a : Nat) (k : EventKind) : (s.log a k).drawCount = s.drawCount := rfl

/-! ### `addFault` -/
@[simp] theorem State.addFault_cfg (a : Nat) (w : Word) (k : FaultKind) : (s.addFault a w k).cfg = s.cfg := rfl
@[simp] theorem State.addFault_count (a : Nat) (w : Word) (k : FaultKind) : (s.addFault a w k).count = s.count := rfl
@[simp] theorem State.addFault_region (a : Nat) (w : Word) (k : FaultKind) : (s.addFault a w k).region = s.region :=
  rfl
@[simp] theorem State.addFault_lineDrive (a : Nat) (w : Word) (k : FaultKind) :
    (s.addFault a w k).lineDrive = s.lineDrive :=
  rfl
@[simp] theorem State.addFault_err (a : Nat) (w : Word) (k : FaultKind) : (s.addFault a w k).err = s.err := rfl
@[simp] theorem State.addFault_agents (a : Nat) (w : Word) (k : FaultKind) : (s.addFault a w k).agents = s.agents :=
  rfl
@[simp] theorem State.addFault_owner (a : Nat) (w : Word) (k : FaultKind) : (s.addFault a w k).owner = s.owner := rfl
@[simp] theorem State.addFault_hist (a : Nat) (w : Word) (k : FaultKind) : (s.addFault a w k).hist = s.hist := rfl
@[simp] theorem State.addFault_faults (a : Nat) (w : Word) (k : FaultKind) :
    (s.addFault a w k).faults = s.faults ++ [⟨a, s.seqOf a, w, k⟩] :=
  rfl
@[simp] theorem State.addFault_active (a : Nat) (w : Word) (k : FaultKind) : (s.addFault a w k).active = s.active :=
  rfl
@[simp] theorem State.addFault_turns (a : Nat) (w : Word) (k : FaultKind) : (s.addFault a w k).turns = s.turns := rfl
@[simp] theorem State.addFault_turnCount (a : Nat) (w : Word) (k : FaultKind) :
    (s.addFault a w k).turnCount = s.turnCount :=
  rfl
@[simp] theorem State.addFault_draws (a : Nat) (w : Word) (k : FaultKind) : (s.addFault a w k).draws = s.draws := rfl
@[simp] theorem State.addFault_drawCount (a : Nat) (w : Word) (k : FaultKind) :
    (s.addFault a w k).drawCount = s.drawCount :=
  rfl

/-! ### `setErr` -/
@[simp] theorem State.setErr_cfg (st : Status) : (s.setErr st).cfg = s.cfg := rfl
@[simp] theorem State.setErr_count (st : Status) : (s.setErr st).count = s.count := rfl
@[simp] theorem State.setErr_region (st : Status) : (s.setErr st).region = s.region := rfl
@[simp] theorem State.setErr_lineDrive (st : Status) : (s.setErr st).lineDrive = s.lineDrive := rfl
@[simp] theorem State.setErr_err (st : Status) : (s.setErr st).err = s.err ||| st.errBit := rfl
@[simp] theorem State.setErr_agents (st : Status) : (s.setErr st).agents = s.agents := rfl
@[simp] theorem State.setErr_owner (st : Status) : (s.setErr st).owner = s.owner := rfl
@[simp] theorem State.setErr_hist (st : Status) : (s.setErr st).hist = s.hist := rfl
@[simp] theorem State.setErr_faults (st : Status) : (s.setErr st).faults = s.faults := rfl
@[simp] theorem State.setErr_active (st : Status) : (s.setErr st).active = s.active := rfl
@[simp] theorem State.setErr_turns (st : Status) : (s.setErr st).turns = s.turns := rfl
@[simp] theorem State.setErr_turnCount (st : Status) : (s.setErr st).turnCount = s.turnCount := rfl
@[simp] theorem State.setErr_draws (st : Status) : (s.setErr st).draws = s.draws := rfl
@[simp] theorem State.setErr_drawCount (st : Status) : (s.setErr st).drawCount = s.drawCount := rfl

/-! ### `lineDriveLow` -/
@[simp] theorem State.lineDriveLow_cfg (a : Nat) : (s.lineDriveLow a).cfg = s.cfg := rfl
@[simp] theorem State.lineDriveLow_count (a : Nat) : (s.lineDriveLow a).count = s.count := rfl
@[simp] theorem State.lineDriveLow_region (a : Nat) : (s.lineDriveLow a).region = s.region := rfl
@[simp] theorem State.lineDriveLow_lineDrive (a : Nat) : (s.lineDriveLow a).lineDrive = .driven := rfl
@[simp] theorem State.lineDriveLow_err (a : Nat) : (s.lineDriveLow a).err = s.err := rfl
@[simp] theorem State.lineDriveLow_agents (a : Nat) : (s.lineDriveLow a).agents = s.agents := rfl
@[simp] theorem State.lineDriveLow_owner (a : Nat) : (s.lineDriveLow a).owner = s.owner := rfl
@[simp] theorem State.lineDriveLow_hist (a : Nat) : (s.lineDriveLow a).hist = s.hist ++ [⟨a, s.seqOf a, .driveLow⟩] :=
  rfl
@[simp] theorem State.lineDriveLow_faults (a : Nat) : (s.lineDriveLow a).faults = s.faults := rfl
@[simp] theorem State.lineDriveLow_active (a : Nat) : (s.lineDriveLow a).active = s.active := rfl
@[simp] theorem State.lineDriveLow_turns (a : Nat) : (s.lineDriveLow a).turns = s.turns := rfl
@[simp] theorem State.lineDriveLow_turnCount (a : Nat) : (s.lineDriveLow a).turnCount = s.turnCount := rfl
@[simp] theorem State.lineDriveLow_draws (a : Nat) : (s.lineDriveLow a).draws = s.draws := rfl
@[simp] theorem State.lineDriveLow_drawCount (a : Nat) : (s.lineDriveLow a).drawCount = s.drawCount := rfl

/-! ### `lineRelease` -/
@[simp] theorem State.lineRelease_cfg (a : Nat) : (s.lineRelease a).cfg = s.cfg := rfl
@[simp] theorem State.lineRelease_count (a : Nat) : (s.lineRelease a).count = s.count := rfl
@[simp] theorem State.lineRelease_region (a : Nat) : (s.lineRelease a).region = s.region := rfl
@[simp] theorem State.lineRelease_lineDrive (a : Nat) : (s.lineRelease a).lineDrive = .released := rfl
@[simp] theorem State.lineRelease_err (a : Nat) : (s.lineRelease a).err = s.err := rfl
@[simp] theorem State.lineRelease_agents (a : Nat) : (s.lineRelease a).agents = s.agents := rfl
@[simp] theorem State.lineRelease_owner (a : Nat) : (s.lineRelease a).owner = s.owner := rfl
@[simp] theorem State.lineRelease_hist (a : Nat) :
    (s.lineRelease a).hist = s.hist ++ [⟨a, s.seqOf a, .lineRelease⟩] :=
  rfl
@[simp] theorem State.lineRelease_faults (a : Nat) : (s.lineRelease a).faults = s.faults := rfl
@[simp] theorem State.lineRelease_active (a : Nat) : (s.lineRelease a).active = s.active := rfl
@[simp] theorem State.lineRelease_turns (a : Nat) : (s.lineRelease a).turns = s.turns := rfl
@[simp] theorem State.lineRelease_turnCount (a : Nat) : (s.lineRelease a).turnCount = s.turnCount := rfl
@[simp] theorem State.lineRelease_draws (a : Nat) : (s.lineRelease a).draws = s.draws := rfl
@[simp] theorem State.lineRelease_drawCount (a : Nat) : (s.lineRelease a).drawCount = s.drawCount := rfl

/-! ### `delay` -/
@[simp] theorem State.delay_cfg (a : Nat) (n : DelayName) : (s.delay a n).cfg = s.cfg := rfl
@[simp] theorem State.delay_count (a : Nat) (n : DelayName) : (s.delay a n).count = s.count := rfl
@[simp] theorem State.delay_region (a : Nat) (n : DelayName) : (s.delay a n).region = s.region := rfl
@[simp] theorem State.delay_lineDrive (a : Nat) (n : DelayName) : (s.delay a n).lineDrive = s.lineDrive := rfl
@[simp] theorem State.delay_err (a : Nat) (n : DelayName) : (s.delay a n).err = s.err := rfl
@[simp] theorem State.delay_agents (a : Nat) (n : DelayName) : (s.delay a n).agents = s.agents := rfl
@[simp] theorem State.delay_owner (a : Nat) (n : DelayName) : (s.delay a n).owner = s.owner := rfl
@[simp] theorem State.delay_hist (a : Nat) (n : DelayName) :
    (s.delay a n).hist = s.hist ++ [⟨a, s.seqOf a, .delay n⟩] :=
  rfl
@[simp] theorem State.delay_faults (a : Nat) (n : DelayName) : (s.delay a n).faults = s.faults := rfl
@[simp] theorem State.delay_active (a : Nat) (n : DelayName) : (s.delay a n).active = s.active := rfl
@[simp] theorem State.delay_turns (a : Nat) (n : DelayName) : (s.delay a n).turns = s.turns := rfl
@[simp] theorem State.delay_turnCount (a : Nat) (n : DelayName) : (s.delay a n).turnCount = s.turnCount := rfl
@[simp] theorem State.delay_draws (a : Nat) (n : DelayName) : (s.delay a n).draws = s.draws := rfl
@[simp] theorem State.delay_drawCount (a : Nat) (n : DelayName) : (s.delay a n).drawCount = s.drawCount := rfl

/-! ### `useDraw` -/
@[simp] theorem State.useDraw_cfg : (s.useDraw).cfg = s.cfg := by unfold State.useDraw; split <;> rfl
@[simp] theorem State.useDraw_count : (s.useDraw).count = s.count := by unfold State.useDraw; split <;> rfl
@[simp] theorem State.useDraw_region : (s.useDraw).region = s.region := by unfold State.useDraw; split <;> rfl
@[simp] theorem State.useDraw_lineDrive : (s.useDraw).lineDrive = s.lineDrive :=
  by unfold State.useDraw; split <;> rfl
@[simp] theorem State.useDraw_err : (s.useDraw).err = s.err := by unfold State.useDraw; split <;> rfl
@[simp] theorem State.useDraw_agents : (s.useDraw).agents = s.agents := by unfold State.useDraw; split <;> rfl
@[simp] theorem State.useDraw_owner : (s.useDraw).owner = s.owner := by unfold State.useDraw; split <;> rfl
@[simp] theorem State.useDraw_hist : (s.useDraw).hist = s.hist := by unfold State.useDraw; split <;> rfl
@[simp] theorem State.useDraw_faults : (s.useDraw).faults = s.faults := by unfold State.useDraw; split <;> rfl
@[simp] theorem State.useDraw_active : (s.useDraw).active = s.active := by unfold State.useDraw; split <;> rfl
@[simp] theorem State.useDraw_turns : (s.useDraw).turns = s.turns := by unfold State.useDraw; split <;> rfl
@[simp] theorem State.useDraw_turnCount : (s.useDraw).turnCount = s.turnCount :=
  by unfold State.useDraw; split <;> rfl

/-! ### `sample` -/
@[simp] theorem State.sample_cfg (a : Nat) : (s.sample a).cfg = s.cfg := by
  unfold State.sample State.useDraw; split <;> (try split) <;> rfl
@[simp] theorem State.sample_count (a : Nat) : (s.sample a).count = s.count := by
  unfold State.sample State.useDraw; split <;> (try split) <;> rfl
@[simp] theorem State.sample_region (a : Nat) : (s.sample a).region = s.region := by
  unfold State.sample State.useDraw; split <;> (try split) <;> rfl
@[simp] theorem State.sample_lineDrive (a : Nat) : (s.sample a).lineDrive = s.lineDrive := by
  unfold State.sample State.useDraw; split <;> (try split) <;> rfl
@[simp] theorem State.sample_err (a : Nat) : (s.sample a).err = s.err := by
  unfold State.sample State.useDraw; split <;> (try split) <;> rfl
@[simp] theorem State.sample_agents (a : Nat) : (s.sample a).agents = s.agents := by
  unfold State.sample State.useDraw; split <;> (try split) <;> rfl
@[simp] theorem State.sample_owner (a : Nat) : (s.sample a).owner = s.owner := by
  unfold State.sample State.useDraw; split <;> (try split) <;> rfl
@[simp] theorem State.sample_hist (a : Nat) : (s.sample a).hist = s.hist ++ [⟨a, s.seqOf a, .sample s.level⟩] := by
  unfold State.sample State.level State.useDraw; split <;> (try split) <;> rfl
@[simp] theorem State.sample_faults (a : Nat) : (s.sample a).faults = s.faults := by
  unfold State.sample State.useDraw; split <;> (try split) <;> rfl
@[simp] theorem State.sample_active (a : Nat) : (s.sample a).active = s.active := by
  unfold State.sample State.useDraw; split <;> (try split) <;> rfl
@[simp] theorem State.sample_turns (a : Nat) : (s.sample a).turns = s.turns := by
  unfold State.sample State.useDraw; split <;> (try split) <;> rfl
@[simp] theorem State.sample_turnCount (a : Nat) : (s.sample a).turnCount = s.turnCount := by
  unfold State.sample State.useDraw; split <;> (try split) <;> rfl

/-! ### `recordStatus` -/
@[simp] theorem State.recordStatus_cfg (a : Nat) (w : Word) (st : Status) : (s.recordStatus a w st).cfg = s.cfg :=
  by unfold State.recordStatus; split <;> rfl
@[simp] theorem State.recordStatus_count (a : Nat) (w : Word) (st : Status) :
    (s.recordStatus a w st).count = s.count :=
  by unfold State.recordStatus; split <;> rfl
@[simp] theorem State.recordStatus_region (a : Nat) (w : Word) (st : Status) :
    (s.recordStatus a w st).region = s.region :=
  by unfold State.recordStatus; split <;> rfl
@[simp] theorem State.recordStatus_lineDrive (a : Nat) (w : Word) (st : Status) :
    (s.recordStatus a w st).lineDrive = s.lineDrive :=
  by unfold State.recordStatus; split <;> rfl
@[simp] theorem State.recordStatus_err (a : Nat) (w : Word) (st : Status) : (s.recordStatus a w st).err = s.err :=
  by unfold State.recordStatus; split <;> rfl
@[simp] theorem State.recordStatus_agents (a : Nat) (w : Word) (st : Status) :
    (s.recordStatus a w st).agents = s.agents :=
  by unfold State.recordStatus; split <;> rfl
@[simp] theorem State.recordStatus_owner (a : Nat) (w : Word) (st : Status) :
    (s.recordStatus a w st).owner = s.owner :=
  by unfold State.recordStatus; split <;> rfl
@[simp] theorem State.recordStatus_hist (a : Nat) (w : Word) (st : Status) : (s.recordStatus a w st).hist = s.hist :=
  by unfold State.recordStatus; split <;> rfl
@[simp] theorem State.recordStatus_active (a : Nat) (w : Word) (st : Status) :
    (s.recordStatus a w st).active = s.active :=
  by unfold State.recordStatus; split <;> rfl
@[simp] theorem State.recordStatus_turns (a : Nat) (w : Word) (st : Status) :
    (s.recordStatus a w st).turns = s.turns :=
  by unfold State.recordStatus; split <;> rfl
@[simp] theorem State.recordStatus_turnCount (a : Nat) (w : Word) (st : Status) :
    (s.recordStatus a w st).turnCount = s.turnCount :=
  by unfold State.recordStatus; split <;> rfl
@[simp] theorem State.recordStatus_draws (a : Nat) (w : Word) (st : Status) :
    (s.recordStatus a w st).draws = s.draws :=
  by unfold State.recordStatus; split <;> rfl
@[simp] theorem State.recordStatus_drawCount (a : Nat) (w : Word) (st : Status) :
    (s.recordStatus a w st).drawCount = s.drawCount :=
  by unfold State.recordStatus; split <;> rfl

/-! ### `respond` -/
@[simp] theorem State.respond_cfg (a : Nat) (w : Word) (st : Status) (v : Byte) : (s.respond a w st v).cfg = s.cfg := by
  unfold State.respond State.recordStatus; split <;> rfl
@[simp] theorem State.respond_count (a : Nat) (w : Word) (st : Status) (v : Byte) :
    (s.respond a w st v).count = s.count := by
  unfold State.respond State.recordStatus; split <;> rfl
@[simp] theorem State.respond_region (a : Nat) (w : Word) (st : Status) (v : Byte) :
    (s.respond a w st v).region = s.region := by
  unfold State.respond State.recordStatus; split <;> rfl
@[simp] theorem State.respond_lineDrive (a : Nat) (w : Word) (st : Status) (v : Byte) :
    (s.respond a w st v).lineDrive = s.lineDrive := by
  unfold State.respond State.recordStatus; split <;> rfl
@[simp] theorem State.respond_err (a : Nat) (w : Word) (st : Status) (v : Byte) : (s.respond a w st v).err = s.err := by
  unfold State.respond State.recordStatus; split <;> rfl
@[simp] theorem State.respond_agents (a : Nat) (w : Word) (st : Status) (v : Byte) :
    (s.respond a w st v).agents = s.agents.modify a (fun ag => ag.responded st v) := by
  unfold State.respond State.recordStatus; split <;> rfl
@[simp] theorem State.respond_owner (a : Nat) (w : Word) (st : Status) (v : Byte) :
    (s.respond a w st v).owner = s.owner := by
  unfold State.respond State.recordStatus; split <;> rfl
@[simp] theorem State.respond_hist (a : Nat) (w : Word) (st : Status) (v : Byte) :
    (s.respond a w st v).hist = s.hist ++ [⟨a, s.seqOf a, .respond st v⟩] := by
  unfold State.respond State.recordStatus; split <;> rfl
@[simp] theorem State.respond_active (a : Nat) (w : Word) (st : Status) (v : Byte) :
    (s.respond a w st v).active = s.active := by
  unfold State.respond State.recordStatus; split <;> rfl
@[simp] theorem State.respond_turns (a : Nat) (w : Word) (st : Status) (v : Byte) :
    (s.respond a w st v).turns = s.turns := by
  unfold State.respond State.recordStatus; split <;> rfl
@[simp] theorem State.respond_turnCount (a : Nat) (w : Word) (st : Status) (v : Byte) :
    (s.respond a w st v).turnCount = s.turnCount := by
  unfold State.respond State.recordStatus; split <;> rfl
@[simp] theorem State.respond_draws (a : Nat) (w : Word) (st : Status) (v : Byte) :
    (s.respond a w st v).draws = s.draws := by
  unfold State.respond State.recordStatus; split <;> rfl
@[simp] theorem State.respond_drawCount (a : Nat) (w : Word) (st : Status) (v : Byte) :
    (s.respond a w st v).drawCount = s.drawCount := by
  unfold State.respond State.recordStatus; split <;> rfl

/-! ### `raiseContention` -/
@[simp] theorem State.raiseContention_cfg (a : Nat) (w : Word) : (s.raiseContention a w).cfg = s.cfg := rfl
@[simp] theorem State.raiseContention_count (a : Nat) (w : Word) : (s.raiseContention a w).count = s.count := rfl
@[simp] theorem State.raiseContention_region (a : Nat) (w : Word) : (s.raiseContention a w).region = s.region := rfl
@[simp] theorem State.raiseContention_lineDrive (a : Nat) (w : Word) :
    (s.raiseContention a w).lineDrive = s.lineDrive :=
  rfl
@[simp] theorem State.raiseContention_err (a : Nat) (w : Word) : (s.raiseContention a w).err = s.err := rfl
@[simp] theorem State.raiseContention_agents (a : Nat) (w : Word) :
    (s.raiseContention a w).agents = s.agents.modify a Agent.stopped :=
  rfl
@[simp] theorem State.raiseContention_owner (a : Nat) (w : Word) : (s.raiseContention a w).owner = s.owner := rfl
@[simp] theorem State.raiseContention_hist (a : Nat) (w : Word) :
    (s.raiseContention a w).hist = s.hist ++ [⟨a, s.seqOf a, .fault .guardContention⟩] :=
  rfl
@[simp] theorem State.raiseContention_faults (a : Nat) (w : Word) :
    (s.raiseContention a w).faults = s.faults ++ [⟨a, s.seqOf a, w, .guardContention⟩] :=
  rfl
@[simp] theorem State.raiseContention_active (a : Nat) (w : Word) : (s.raiseContention a w).active = s.active := rfl
@[simp] theorem State.raiseContention_turns (a : Nat) (w : Word) : (s.raiseContention a w).turns = s.turns := rfl
@[simp] theorem State.raiseContention_turnCount (a : Nat) (w : Word) :
    (s.raiseContention a w).turnCount = s.turnCount :=
  rfl
@[simp] theorem State.raiseContention_draws (a : Nat) (w : Word) : (s.raiseContention a w).draws = s.draws := rfl
@[simp] theorem State.raiseContention_drawCount (a : Nat) (w : Word) :
    (s.raiseContention a w).drawCount = s.drawCount :=
  rfl

/-! ### `guardEnter` -/
@[simp] theorem State.guardEnter_cfg (a : Nat) : (s.guardEnter a).cfg = s.cfg := rfl
@[simp] theorem State.guardEnter_count (a : Nat) : (s.guardEnter a).count = s.count := rfl
@[simp] theorem State.guardEnter_region (a : Nat) : (s.guardEnter a).region = true := rfl
@[simp] theorem State.guardEnter_lineDrive (a : Nat) : (s.guardEnter a).lineDrive = s.lineDrive := rfl
@[simp] theorem State.guardEnter_err (a : Nat) : (s.guardEnter a).err = s.err := rfl
@[simp] theorem State.guardEnter_agents (a : Nat) : (s.guardEnter a).agents = s.agents := rfl
@[simp] theorem State.guardEnter_owner (a : Nat) : (s.guardEnter a).owner = s.owner := rfl
@[simp] theorem State.guardEnter_hist (a : Nat) : (s.guardEnter a).hist = s.hist ++ [⟨a, s.seqOf a, .enter⟩] := rfl
@[simp] theorem State.guardEnter_faults (a : Nat) : (s.guardEnter a).faults = s.faults := rfl
@[simp] theorem State.guardEnter_active (a : Nat) : (s.guardEnter a).active = s.active := rfl
@[simp] theorem State.guardEnter_turns (a : Nat) : (s.guardEnter a).turns = s.turns := rfl
@[simp] theorem State.guardEnter_turnCount (a : Nat) : (s.guardEnter a).turnCount = s.turnCount := rfl
@[simp] theorem State.guardEnter_draws (a : Nat) : (s.guardEnter a).draws = s.draws := rfl
@[simp] theorem State.guardEnter_drawCount (a : Nat) : (s.guardEnter a).drawCount = s.drawCount := rfl

/-! ### `guardExit` -/
@[simp] theorem State.guardExit_cfg (a : Nat) : (s.guardExit a).cfg = s.cfg := rfl
@[simp] theorem State.guardExit_count (a : Nat) : (s.guardExit a).count = s.count := rfl
@[simp] theorem State.guardExit_region (a : Nat) : (s.guardExit a).region = false := rfl
@[simp] theorem State.guardExit_lineDrive (a : Nat) : (s.guardExit a).lineDrive = s.lineDrive := rfl
@[simp] theorem State.guardExit_err (a : Nat) : (s.guardExit a).err = s.err := rfl
@[simp] theorem State.guardExit_agents (a : Nat) : (s.guardExit a).agents = s.agents := rfl
@[simp] theorem State.guardExit_owner (a : Nat) : (s.guardExit a).owner = none := rfl
@[simp] theorem State.guardExit_hist (a : Nat) : (s.guardExit a).hist = s.hist ++ [⟨a, s.seqOf a, .exit⟩] := rfl
@[simp] theorem State.guardExit_faults (a : Nat) : (s.guardExit a).faults = s.faults := rfl
@[simp] theorem State.guardExit_active (a : Nat) : (s.guardExit a).active = s.active := rfl
@[simp] theorem State.guardExit_turns (a : Nat) : (s.guardExit a).turns = s.turns := rfl
@[simp] theorem State.guardExit_turnCount (a : Nat) : (s.guardExit a).turnCount = s.turnCount := rfl
@[simp] theorem State.guardExit_draws (a : Nat) : (s.guardExit a).draws = s.draws := rfl
@[simp] theorem State.guardExit_drawCount (a : Nat) : (s.guardExit a).drawCount = s.drawCount := rfl

/-! ### `blockReset` -/
@[simp] theorem State.blockReset_cfg : (s.blockReset).cfg = s.cfg := rfl
@[simp] theorem State.blockReset_count : (s.blockReset).count = 0 := rfl
@[simp] theorem State.blockReset_region : (s.blockReset).region = false := rfl
@[simp] theorem State.blockReset_lineDrive : (s.blockReset).lineDrive = .released := rfl
@[simp] theorem State.blockReset_err : (s.blockReset).err = 0 := rfl
@[simp] theorem State.blockReset_agents :
    (s.blockReset).agents = s.agents.map (fun ag => { ag with phase := .idle }) :=
  rfl
@[simp] theorem State.blockReset_owner : (s.blockReset).owner = none := rfl
@[simp] theorem State.blockReset_hist : (s.blockReset).hist = [] := rfl
@[simp] theorem State.blockReset_faults : (s.blockReset).faults = [] := rfl
@[simp] theorem State.blockReset_active : (s.blockReset).active = s.active := rfl
@[simp] theorem State.blockReset_turns : (s.blockReset).turns = s.turns := rfl
@[simp] theorem State.blockReset_turnCount : (s.blockReset).turnCount = s.turnCount := rfl
@[simp] theorem State.blockReset_draws : (s.blockReset).draws = s.draws := rfl
@[simp] theorem State.blockReset_drawCount : (s.blockReset).drawCount = s.drawCount := rfl

/-! ### `activate` -/
@[simp] theorem State.activate_cfg (a : Nat) : (s.activate a).cfg = s.cfg := rfl
@[simp] theorem State.activate_count (a : Nat) : (s.activate a).count = s.count := rfl
@[simp] theorem State.activate_region (a : Nat) : (s.activate a).region = s.region := rfl
@[simp] theorem State.activate_lineDrive (a : Nat) : (s.activate a).lineDrive = s.lineDrive := rfl
@[simp] theorem State.activate_err (a : Nat) : (s.activate a).err = s.err := rfl
@[simp] theorem State.activate_agents (a : Nat) : (s.activate a).agents = s.agents := rfl
@[simp] theorem State.activate_owner (a : Nat) : (s.activate a).owner = s.owner := rfl
@[simp] theorem State.activate_hist (a : Nat) : (s.activate a).hist = s.hist := rfl
@[simp] theorem State.activate_faults (a : Nat) : (s.activate a).faults = s.faults := rfl
@[simp] theorem State.activate_active (a : Nat) : (s.activate a).active = a := rfl
@[simp] theorem State.activate_turns (a : Nat) : (s.activate a).turns = s.turns := rfl
@[simp] theorem State.activate_turnCount (a : Nat) : (s.activate a).turnCount = s.turnCount := rfl
@[simp] theorem State.activate_draws (a : Nat) : (s.activate a).draws = s.draws := rfl
@[simp] theorem State.activate_drawCount (a : Nat) : (s.activate a).drawCount = s.drawCount := rfl

/-! ### `useTurn` -/
@[simp] theorem State.useTurn_cfg : (s.useTurn).cfg = s.cfg := by unfold State.useTurn; split <;> rfl
@[simp] theorem State.useTurn_count : (s.useTurn).count = s.count := by unfold State.useTurn; split <;> rfl
@[simp] theorem State.useTurn_region : (s.useTurn).region = s.region := by unfold State.useTurn; split <;> rfl
@[simp] theorem State.useTurn_lineDrive : (s.useTurn).lineDrive = s.lineDrive :=
  by unfold State.useTurn; split <;> rfl
@[simp] theorem State.useTurn_err : (s.useTurn).err = s.err := by unfold State.useTurn; split <;> rfl
@[simp] theorem State.useTurn_agents : (s.useTurn).agents = s.agents := by unfold State.useTurn; split <;> rfl
@[simp] theorem State.useTurn_owner : (s.useTurn).owner = s.owner := by unfold State.useTurn; split <;> rfl
@[simp] theorem State.useTurn_hist : (s.useTurn).hist = s.hist := by unfold State.useTurn; split <;> rfl
@[simp] theorem State.useTurn_faults : (s.useTurn).faults = s.faults := by unfold State.useTurn; split <;> rfl
@[simp] theorem State.useTurn_active : (s.useTurn).active = s.active := by unfold State.useTurn; split <;> rfl
@[simp] theorem State.useTurn_draws : (s.useTurn).draws = s.draws := by unfold State.useTurn; split <;> rfl
@[simp] theorem State.useTurn_drawCount : (s.useTurn).drawCount = s.drawCount :=
  by unfold State.useTurn; split <;> rfl

end Sys2Proof.Machine
end

