-- ==== Sys2Proof/Laws/Ops.lean ====
section
/-! SUPPORT. One lemma for each shared operation that says everything it can do; proofs cite these and do not unfold. -/

namespace Sys2Proof.Machine

/-! ### Agents -/

/-- A phase that is there belongs to an agent that is there. -/
theorem State.phaseOf_eq_some {s : State} {a : Nat} {p : Phase} (h : s.phaseOf a = some p) :
    ∃ ag, s.agents[a]? = some ag ∧ ag.phase = p := by
  simpa [State.phaseOf, Option.map_eq_some_iff] using h

theorem State.phaseOf_congr {s t : State} (h : t.agents = s.agents) (a : Nat) : t.phaseOf a = s.phaseOf a := by
  simp [State.phaseOf, h]

theorem State.seqOf_congr {s t : State} (h : t.agents = s.agents) (a : Nat) : t.seqOf a = s.seqOf a := by
  simp [State.seqOf, h]

/-- Changing an agent's phase sets it, if the agent is there. -/
theorem State.phaseOf_setPhase_self {s : State} {a : Nat} {q : Phase} (p : Phase) (h : s.phaseOf a = some q) :
    (s.setPhase a p).phaseOf a = some p := by
  obtain ⟨ag, hag, -⟩ := State.phaseOf_eq_some h
  simp [State.phaseOf, hag]

/-- Changing an agent's phase leaves the other agents' phases. -/
theorem State.phaseOf_setPhase_ne (s : State) {a b : Nat} (p : Phase) (h : a ≠ b) :
    (s.setPhase a p).phaseOf b = s.phaseOf b := by
  simp [State.phaseOf, h]

/-- A response leaves its agent `IDLE`. -/
theorem State.phaseOf_respond_self {s : State} {a : Nat} {q : Phase} (w : Word) (st : Status) (v : Byte)
    (h : s.phaseOf a = some q) : (s.respond a w st v).phaseOf a = some .idle := by
  obtain ⟨ag, hag, -⟩ := State.phaseOf_eq_some h
  simp [State.phaseOf, hag, Agent.responded]

/-- A response leaves the other agents' phases. -/
theorem State.phaseOf_respond_ne (s : State) {a b : Nat} (w : Word) (st : Status) (v : Byte) (h : a ≠ b) :
    (s.respond a w st v).phaseOf b = s.phaseOf b := by
  simp [State.phaseOf, h]

@[simp] theorem Agent.stopped_phase (ag : Agent) : ag.stopped.phase = .faulted := rfl
@[simp] theorem Agent.stopped_seq (ag : Agent) : ag.stopped.seq = ag.seq + 1 := rfl
@[simp] theorem Agent.stopped_jobs (ag : Agent) : ag.stopped.jobs = ag.jobs := rfl
@[simp] theorem Agent.stopped_last (ag : Agent) : ag.stopped.last = ag.last := rfl

/-- A stopping fault leaves its agent `FAULTED`. -/
theorem State.phaseOf_raiseContention_self {s : State} {a : Nat} {q : Phase} (w : Word) (h : s.phaseOf a = some q) :
    (s.raiseContention a w).phaseOf a = some .faulted := by
  obtain ⟨ag, hag, -⟩ := State.phaseOf_eq_some h
  simp [State.phaseOf, hag]

/-- A stopping fault leaves the other agents' phases. -/
theorem State.phaseOf_raiseContention_ne (s : State) {a b : Nat} (w : Word) (h : a ≠ b) :
    (s.raiseContention a w).phaseOf b = s.phaseOf b := by
  simp [State.phaseOf, h]

/-- A change of the phase keeps every agent's issue position. -/
@[simp] theorem State.seqOf_setPhase (s : State) (a b : Nat) (p : Phase) :
    (s.setPhase a p).seqOf b = s.seqOf b := by
  by_cases h : a = b
  · subst h; cases hb : s.agents[a]? <;> simp [State.seqOf, hb]
  · simp [State.seqOf, h]

/-- Two changes of one agent's phase: the later one stands. -/
theorem modify_phase_phase (l : List Agent) (a : Nat) (p q : Phase) :
    (l.modify a (fun ag => { ag with phase := p })).modify a (fun ag => { ag with phase := q }) =
      l.modify a (fun ag => { ag with phase := q }) := by
  rw [List.modify_modify_eq]; rfl

/-- A change of the phase before a response leaves no trace. -/
theorem modify_phase_responded (l : List Agent) (a : Nat) (p : Phase) (st : Status) (v : Byte) :
    (l.modify a (fun ag => { ag with phase := p })).modify a (fun ag => ag.responded st v) =
      l.modify a (fun ag => ag.responded st v) := by
  rw [List.modify_modify_eq]; rfl

/-! ### The line -/

/-- A sample of a released line is a draw (R35). -/
theorem State.level_released {s : State} (h : s.lineDrive = .released) : s.level = s.drawLevel := by
  simp [State.level, h]

/-- A sample of a driven line is 0 (R35). -/
theorem State.level_driven {s : State} (h : s.lineDrive = .driven) : s.level = 0 := by
  simp [State.level, h]

/-- What `Sample()` does: its event, and one draw if the line is released (R34, R35). -/
theorem State.sample_eq (s : State) (a : Nat) :
    s.sample a = (if s.lineDrive = .released then s.useDraw else s).log a (.sample s.level) := by
  unfold State.sample State.level; split <;> simp_all

/-! ### The guard -/

/-- No contention: the guard is free or the agent's own (R67). -/
theorem State.contended_eq_false {s : State} {a : Nat} :
    s.contended a = false ↔ s.owner = none ∨ s.owner = some a := by
  unfold State.contended; split <;> simp_all

/-- Contention: another agent is the owner (R67). -/
theorem State.contended_eq_true {s : State} {a : Nat} :
    s.contended a = true ↔ ∃ o, s.owner = some o ∧ o ≠ a := by
  unfold State.contended; split <;> simp_all

/-- A token is taken (R65). -/
def State.counted (s : State) (a : Nat) : State :=
  ({ s with count := s.count + 1, owner := if s.count = 0 then some a else s.owner }).log a (.inc s.count)

/-- A token is given back (R66). -/
def State.uncounted (s : State) (a : Nat) : State :=
  ({ s with count := s.count - 1 }).log a (.dec (s.count - 1))

/-- Everything the increment step can do (R65, R67, R68). -/
theorem acquireStep_cases (a : Nat) (w : Word) (ovf enter onward : Phase) (s : State) :
    (s.contended a = true ∧ acquireStep a w ovf enter onward s = s.raiseContention a w) ∨
    (s.contended a = false ∧ s.count = s.cfg.maxCount ∧
      acquireStep a w ovf enter onward s = ((s.setErr .guardOverflow).log a .incOverflow).setPhase a ovf) ∨
    (s.contended a = false ∧ s.count ≠ s.cfg.maxCount ∧
      acquireStep a w ovf enter onward s =
        (s.counted a).setPhase a (if s.count = 0 then enter else onward)) := by
  unfold acquireStep State.guardInc
  cases hc : s.contended a
  · by_cases hm : s.count = s.cfg.maxCount
    · exact .inr (.inl ⟨rfl, hm, by simp [hm]⟩)
    · exact .inr (.inr ⟨rfl, hm, by simp [hm, State.counted]⟩)
  · exact .inl ⟨rfl, by simp⟩

/-- Everything the decrement step can do (R66, R67, R69). -/
theorem releaseStep_cases (a : Nat) (w : Word) (udf exit onward : Phase) (s : State) :
    (s.contended a = true ∧ releaseStep a w udf exit onward s = s.raiseContention a w) ∨
    (s.contended a = false ∧ s.count = 0 ∧
      releaseStep a w udf exit onward s = ((s.setErr .guardUnderflow).log a .decUnderflow).setPhase a udf) ∨
    (s.contended a = false ∧ s.count ≠ 0 ∧
      releaseStep a w udf exit onward s =
        (s.uncounted a).setPhase a (if s.count - 1 = 0 then exit else onward)) := by
  unfold releaseStep State.guardDec
  cases hc : s.contended a
  · by_cases hm : s.count = 0
    · exact .inr (.inl ⟨rfl, hm, by simp [hm]⟩)
    · exact .inr (.inr ⟨rfl, hm, by simp [hm, State.uncounted]⟩)
  · exact .inl ⟨rfl, by simp⟩

/-! ### Taking a step of a command -/

variable {π : Type} {position : Flight → Option π} {first : π} {take : Nat → π → State → State} {s : State}

/-- An idle agent issues the command and takes its first step. -/
theorem runCommand_idle (h : s.phaseOf s.active = some .idle) :
    runCommand position first take s = .next (take s.active first s) := by
  simp [runCommand, h]

/-- An agent with the command in flight takes its next step. -/
theorem runCommand_running {f : Flight} {p : π} (h : s.phaseOf s.active = some (.running f)) (hp : position f = some p) :
    runCommand position first take s = .next (take s.active p s) := by
  simp [runCommand, h, hp]

/-- Where a next state comes from: the agent was idle, or had the command in flight. -/
theorem runCommand_next {t : State} (h : runCommand position first take s = .next t) :
    ∃ p, t = take s.active p s ∧
      ((s.phaseOf s.active = some .idle ∧ p = first) ∨
       ∃ f, s.phaseOf s.active = some (.running f) ∧ position f = some p) := by
  unfold runCommand at h
  split at h
  · cases h
  · cases h
  · rename_i hi; cases h; exact ⟨_, rfl, .inl ⟨hi, rfl⟩⟩
  · rename_i f hf
    split at h
    · cases h
    · rename_i p hp; cases h; exact ⟨p, rfl, .inr ⟨f, hf, hp⟩⟩

/-- A single-step command's next state is its response (R74, R91). -/
theorem runAtomic_next {i : Instr} {value : State → Byte} {t : State} (h : runAtomic i value s = .next t) :
    s.phaseOf s.active = some .idle ∧ t = s.respond s.active i.word .ok (value s) := by
  obtain ⟨p, rfl, ⟨hi, -⟩ | ⟨f, -, hf⟩⟩ := runCommand_next h
  · exact ⟨hi, rfl⟩
  · cases hf

/-- A single-step command by an idle agent (R74, R91). -/
theorem runAtomic_idle {i : Instr} {value : State → Byte} (h : s.phaseOf s.active = some .idle) :
    runAtomic i value s = .next (s.respond s.active i.word .ok (value s)) :=
  runCommand_idle h

end Sys2Proof.Machine
end

