-- ==== Sys2Proof/Laws/Exec.lean ====
section
/-! SUPPORT. What one step of a command can do, said once: `exec_cases` names the position it is taken from, and
`exec_effect` its effect as one of the twelve shared operations. Frames and invariants follow from these. -/

namespace Sys2Proof.Machine

/-! ### The position a step is taken from -/

/-- The step of a command in flight. -/
def flightStep (a : Nat) (f : Flight) (s : State) : State :=
  match f with
  | .acquire pc => acquireCommandStep a pc s
  | .release pc => releaseCommandStep a pc s
  | .reset pc => resetStep a pc s
  | .writeBit bit pc => writeBitStep bit a pc s
  | .readBit pc => readBitStep a pc s
  | .writeByte byte pc => writeByteStep byte a pc s
  | .readByte pc => readByteStep a pc s

/-- The position a command of several steps starts from; none for the single-step commands (R74, R91). -/
def startOf : Instr → Option Flight
  | .acquire => some (.acquire .inc)
  | .release => some (.release .dec)
  | .readErr => none
  | .reset => some (.reset .inc)
  | .writeBit bit => some (.writeBit bit .inc)
  | .readBit => some (.readBit .inc)
  | .writeByte byte => some (.writeByte byte .inc)
  | .readByte => some (.readByte .inc)
  | .crc8Step _ _ => none
  | .crc8Compute _ => none
  | .crc8CheckRom _ => none
  | .crc8CheckScratchpad _ => none

/-- An idle agent issues a command of several steps and takes its first one. -/
theorem exec_start {i : Instr} {f : Flight} {s : State} (hf : startOf i = some f)
    (h : s.phaseOf s.active = some .idle) : exec i s = .next (flightStep s.active f s) := by
  cases i <;> simp only [startOf, reduceCtorEq, Option.some.injEq] at hf <;> subst hf <;> exact runCommand_idle h

/-- An agent with a command in flight takes its next step. -/
theorem exec_continue {f : Flight} {s : State} (h : s.phaseOf s.active = some (.running f)) :
    exec f.instr s = .next (flightStep s.active f s) := by
  cases f <;> exact runCommand_running h (by simp [atAcquire, atRelease, atReset, atWriteBit, atReadBit, atWriteByte, atReadByte])

theorem atAcquire_eq {f : Flight} {p} (h : atAcquire f = some p) : f = .acquire p := by
  cases f <;> simp_all [atAcquire]

theorem atRelease_eq {f : Flight} {p} (h : atRelease f = some p) : f = .release p := by
  cases f <;> simp_all [atRelease]

theorem atReset_eq {f : Flight} {p} (h : atReset f = some p) : f = .reset p := by
  cases f <;> simp_all [atReset]

theorem atReadBit_eq {f : Flight} {p} (h : atReadBit f = some p) : f = .readBit p := by
  cases f <;> simp_all [atReadBit]

theorem atReadByte_eq {f : Flight} {p} (h : atReadByte f = some p) : f = .readByte p := by
  cases f <;> simp_all [atReadByte]

theorem atWriteBit_eq {bit} {f : Flight} {p} (h : atWriteBit bit f = some p) : f = .writeBit bit p := by
  cases f <;> simp_all [atWriteBit]

theorem atWriteByte_eq {byte} {f : Flight} {p} (h : atWriteByte byte f = some p) : f = .writeByte byte p := by
  cases f <;> simp_all [atWriteByte]

/-- Where a next state of a command of several steps comes from. -/
theorem flight_cases {π : Type} {position : Flight → Option π} {first : π} {take : Nat → π → State → State}
    {s t : State} (make : π → Flight) (h : runCommand position first take s = .next t)
    (hpos : ∀ f p, position f = some p → f = make p) (hstep : ∀ p, take s.active p s = flightStep s.active (make p) s) :
    ∃ p, t = flightStep s.active (make p) s ∧
      ((s.phaseOf s.active = some .idle ∧ p = first) ∨ s.phaseOf s.active = some (.running (make p))) := by
  obtain ⟨p, rfl, ⟨hi, hp⟩ | ⟨f, hf, hp⟩⟩ := runCommand_next h
  · exact ⟨p, hstep p, .inl ⟨hi, hp⟩⟩
  · exact ⟨p, hstep p, .inr (hpos f p hp ▸ hf)⟩

/-- Everything a next state of `exec` can come from: a step of a command of several steps from its start or from where
it is in flight, or the one step of a single-step command. -/
theorem exec_cases {i : Instr} {s t : State} (h : exec i s = .next t) :
    (∃ f, f.instr = i ∧ t = flightStep s.active f s ∧
      ((s.phaseOf s.active = some .idle ∧ startOf i = some f) ∨ s.phaseOf s.active = some (.running f))) ∨
    (startOf i = none ∧ s.phaseOf s.active = some .idle ∧ ∃ v, t = s.respond s.active i.word .ok v) := by
  cases i with
  | acquire =>
    obtain ⟨p, rfl, ⟨hi, rfl⟩ | hr⟩ := flight_cases Flight.acquire h (fun _ _ => atAcquire_eq) (fun _ => rfl)
    · exact .inl ⟨_, rfl, rfl, .inl ⟨hi, rfl⟩⟩
    · exact .inl ⟨_, rfl, rfl, .inr hr⟩
  | release =>
    obtain ⟨p, rfl, ⟨hi, rfl⟩ | hr⟩ := flight_cases Flight.release h (fun _ _ => atRelease_eq) (fun _ => rfl)
    · exact .inl ⟨_, rfl, rfl, .inl ⟨hi, rfl⟩⟩
    · exact .inl ⟨_, rfl, rfl, .inr hr⟩
  | reset =>
    obtain ⟨p, rfl, ⟨hi, rfl⟩ | hr⟩ := flight_cases Flight.reset h (fun _ _ => atReset_eq) (fun _ => rfl)
    · exact .inl ⟨_, rfl, rfl, .inl ⟨hi, rfl⟩⟩
    · exact .inl ⟨_, rfl, rfl, .inr hr⟩
  | writeBit bit =>
    obtain ⟨p, rfl, ⟨hi, rfl⟩ | hr⟩ :=
      flight_cases (Flight.writeBit bit) h (fun _ _ => atWriteBit_eq) (fun _ => rfl)
    · exact .inl ⟨_, rfl, rfl, .inl ⟨hi, rfl⟩⟩
    · exact .inl ⟨_, rfl, rfl, .inr hr⟩
  | readBit =>
    obtain ⟨p, rfl, ⟨hi, rfl⟩ | hr⟩ := flight_cases Flight.readBit h (fun _ _ => atReadBit_eq) (fun _ => rfl)
    · exact .inl ⟨_, rfl, rfl, .inl ⟨hi, rfl⟩⟩
    · exact .inl ⟨_, rfl, rfl, .inr hr⟩
  | writeByte byte =>
    obtain ⟨p, rfl, ⟨hi, rfl⟩ | hr⟩ :=
      flight_cases (Flight.writeByte byte) h (fun _ _ => atWriteByte_eq) (fun _ => rfl)
    · exact .inl ⟨_, rfl, rfl, .inl ⟨hi, rfl⟩⟩
    · exact .inl ⟨_, rfl, rfl, .inr hr⟩
  | readByte =>
    obtain ⟨p, rfl, ⟨hi, rfl⟩ | hr⟩ := flight_cases Flight.readByte h (fun _ _ => atReadByte_eq) (fun _ => rfl)
    · exact .inl ⟨_, rfl, rfl, .inl ⟨hi, rfl⟩⟩
    · exact .inl ⟨_, rfl, rfl, .inr hr⟩
  | readErr => obtain ⟨hi, ht⟩ := runAtomic_next h; exact .inr ⟨rfl, hi, _, ht⟩
  | crc8Step data acc =>
    have h' : runAtomic (.crc8Step data acc) (fun u => crc8Step u.cfg acc data) s = .next t := h
    obtain ⟨hi, ht⟩ := runAtomic_next h'; exact .inr ⟨rfl, hi, _, ht⟩
  | crc8Compute bytes =>
    simp only [exec, execCrc8Compute] at h
    split at h
    · obtain ⟨hi, ht⟩ := runAtomic_next h; exact .inr ⟨rfl, hi, _, ht⟩
    · cases h
  | crc8CheckRom rom =>
    simp only [exec, execCrc8CheckRom] at h
    split at h
    · obtain ⟨hi, ht⟩ := runAtomic_next h; exact .inr ⟨rfl, hi, _, ht⟩
    · cases h
  | crc8CheckScratchpad sp =>
    simp only [exec, execCrc8CheckScratchpad] at h
    split at h
    · obtain ⟨hi, ht⟩ := runAtomic_next h; exact .inr ⟨rfl, hi, _, ht⟩
    · cases h

/-! ### The effect of a step -/

/-- The twelve things a step of agent `a`'s command with word `w` can do to `s`; `p` is the phase the agent goes to. -/
inductive Effect (a : Nat) (w : Word) (s : State) : State → Prop where
  | contention (h : s.contended a = true) : Effect a w s (s.raiseContention a w)
  | overflow (p : Phase) (h : s.contended a = false) (hc : s.count = s.cfg.maxCount) :
      Effect a w s (((s.setErr .guardOverflow).log a .incOverflow).setPhase a p)
  | counted (p : Phase) (h : s.contended a = false) (hc : s.count ≠ s.cfg.maxCount) :
      Effect a w s ((s.counted a).setPhase a p)
  | enter (p : Phase) : Effect a w s ((s.guardEnter a).setPhase a p)
  | underflow (p : Phase) (h : s.contended a = false) (hc : s.count = 0) :
      Effect a w s (((s.setErr .guardUnderflow).log a .decUnderflow).setPhase a p)
  | uncounted (p : Phase) (h : s.contended a = false) (hc : s.count ≠ 0) :
      Effect a w s ((s.uncounted a).setPhase a p)
  | exit (p : Phase) : Effect a w s ((s.guardExit a).setPhase a p)
  | driveLow (p : Phase) : Effect a w s ((s.lineDriveLow a).setPhase a p)
  | lineRelease (p : Phase) : Effect a w s ((s.lineRelease a).setPhase a p)
  | delay (name : DelayName) (p : Phase) : Effect a w s ((s.delay a name).setPhase a p)
  | sample (p : Phase) : Effect a w s ((s.sample a).setPhase a p)
  | respond (status : Status) (value : Byte) : Effect a w s (s.respond a w status value)

theorem acquireStep_effect (a : Nat) (w : Word) (ovf enter onward : Phase) (s : State) :
    Effect a w s (acquireStep a w ovf enter onward s) := by
  obtain ⟨h, e⟩ | ⟨h, hc, e⟩ | ⟨h, hc, e⟩ := acquireStep_cases a w ovf enter onward s <;> rw [e]
  · exact .contention h
  · exact .overflow ovf h hc
  · exact .counted _ h hc

theorem releaseStep_effect (a : Nat) (w : Word) (udf exit onward : Phase) (s : State) :
    Effect a w s (releaseStep a w udf exit onward s) := by
  obtain ⟨h, e⟩ | ⟨h, hc, e⟩ | ⟨h, hc, e⟩ := releaseStep_cases a w udf exit onward s <;> rw [e]
  · exact .contention h
  · exact .underflow udf h hc
  · exact .uncounted _ h hc

theorem bracketStep_effect {β : Type} {a : Nat} {w : Word} {wrap : BracketPc β → Phase} {first : β}
    {bodyStep : β → State → State} {s : State} (hbody : ∀ p, Effect a w s (bodyStep p s)) (pc : BracketPc β) :
    Effect a w s (bracketStep a w wrap first bodyStep pc s) := by
  cases pc with
  | inc => exact acquireStep_effect ..
  | enter => exact .enter _
  | body p => exact hbody p
  | dec status value => exact releaseStep_effect ..
  | exit status value => exact .exit _
  | respond status value => exact .respond ..

theorem nestedStep_effect {σ : Type} {a : Nat} {w : Word} {wrap : NestedPc σ → Phase} {first : σ}
    {slotStep : σ → State → State} {ovf next : Phase} {s : State} (hslot : ∀ p, Effect a w s (slotStep p s))
    (pc : NestedPc σ) : Effect a w s (nestedStep a w wrap first slotStep ovf next pc s) := by
  cases pc with
  | inc => exact acquireStep_effect ..
  | enter => exact .enter _
  | slot p => exact hslot p
  | dec => exact releaseStep_effect ..
  | exit => exact .exit _
  | ibd => exact .delay ..

theorem writeSlotStep_effect (a : Nat) (w : Word) (bit : Bit) (wrap : WriteSlotPc → Phase) (done : Phase)
    (pc : WriteSlotPc) (s : State) : Effect a w s (writeSlotStep a bit wrap done pc s) := by
  cases pc <;> constructor

theorem readSlotStep_effect (a : Nat) (w : Word) (b : Bit) (wrap : Bit → ReadSlotPc → Phase) (done : Bit → Phase)
    (pc : ReadSlotPc) (s : State) : Effect a w s (readSlotStep a b wrap done pc s) := by
  cases pc <;> constructor

theorem resetBodyStep_effect (a : Nat) (w : Word) (pc : ResetPc) (s : State) : Effect a w s (resetBodyStep a pc s) := by
  cases pc <;> constructor

/-- A step of a command in flight does one of the twelve things. -/
theorem flightStep_effect (a : Nat) (f : Flight) (s : State) : Effect a f.instr.word s (flightStep a f s) := by
  cases f with
  | acquire pc =>
    cases pc with
    | inc => exact acquireStep_effect ..
    | enter => exact .enter _
    | respond status => exact .respond ..
  | release pc =>
    cases pc with
    | dec => exact releaseStep_effect ..
    | exit => exact .exit _
    | respond status => exact .respond ..
  | reset pc => exact bracketStep_effect (fun p => resetBodyStep_effect a _ p s) pc
  | writeBit bit pc => exact bracketStep_effect (fun p => writeSlotStep_effect ..) pc
  | readBit pc => exact bracketStep_effect (fun p => readSlotStep_effect ..) pc
  | writeByte byte pc =>
    exact bracketStep_effect (fun p => nestedStep_effect (fun q => writeSlotStep_effect ..) p.pc) pc
  | readByte pc =>
    exact bracketStep_effect (fun p => nestedStep_effect (fun q => readSlotStep_effect ..) p.pc) pc

/-- A step of any command does one of the twelve things to the active agent's state, under the command's own word. -/
theorem exec_effect {i : Instr} {s t : State} (h : exec i s = .next t) : Effect s.active i.word s t := by
  obtain ⟨f, rfl, rfl, -⟩ | ⟨-, -, v, rfl⟩ := exec_cases h
  · exact flightStep_effect ..
  · exact .respond ..

end Sys2Proof.Machine
end

