-- ==== Sys2Proof/Laws/PerInstr.lean ====
section
/-! SUPPORT. Statements for all instructions, one lemma per constructor. -/

namespace Sys2Proof.Laws

/-- The payload of an encoded well-formed command has the length its word gives (R55). -/
def EncodeLength.Statement (i : Instr) : Prop :=
  i.wellFormed = true → (encode i).payload.length = payloadLen (opcOf (encode i).word) (opndOf (encode i).word)

theorem EncodeLength.acquire : EncodeLength.Statement .acquire := fun _ => by rw [payloadLen_encode]; rfl

theorem EncodeLength.release : EncodeLength.Statement .release := fun _ => by rw [payloadLen_encode]; rfl

theorem EncodeLength.readErr : EncodeLength.Statement .readErr := fun _ => by rw [payloadLen_encode]; rfl

theorem EncodeLength.reset : EncodeLength.Statement .reset := fun _ => by rw [payloadLen_encode]; rfl

theorem EncodeLength.writeBit (bit : Bit) : EncodeLength.Statement (.writeBit bit) := fun _ => by
  rw [payloadLen_encode]; rfl

theorem EncodeLength.readBit : EncodeLength.Statement .readBit := fun _ => by rw [payloadLen_encode]; rfl

theorem EncodeLength.writeByte (byte : Byte) : EncodeLength.Statement (.writeByte byte) := fun _ => by
  rw [payloadLen_encode]; rfl

theorem EncodeLength.readByte : EncodeLength.Statement .readByte := fun _ => by rw [payloadLen_encode]; rfl

theorem EncodeLength.crc8Step (data acc : Byte) : EncodeLength.Statement (.crc8Step data acc) := fun _ => by
  rw [payloadLen_encode]; rfl

theorem EncodeLength.crc8Compute (bytes : List Byte) : EncodeLength.Statement (.crc8Compute bytes) := fun h => by
  have hle : bytes.length ≤ 255 := by simpa [Instr.wellFormed] using h
  rw [payloadLen_encode]
  simp only [encode, Instr.payload, Instr.opcode, Instr.opnd, BitVec.toNat_ofNat]
  omega

theorem EncodeLength.crc8CheckRom (rom : List Byte) : EncodeLength.Statement (.crc8CheckRom rom) := fun h => by
  rw [payloadLen_encode]
  simpa [Instr.wellFormed, encode, Instr.payload, Instr.opcode] using h

theorem EncodeLength.crc8CheckScratchpad (sp : List Byte) : EncodeLength.Statement (.crc8CheckScratchpad sp) :=
  fun h => by
  rw [payloadLen_encode]
  simpa [Instr.wellFormed, encode, Instr.payload, Instr.opcode] using h

end Sys2Proof.Laws
end

