-- ==== Sys2Proof/Laws/Step.lean ====
section
/-! SUPPORT. What `fetch` and `step` can do, said once. -/

namespace Sys2Proof.Machine

variable {s t : State}

/-- A turn taken from the choices changes no agent. -/
theorem State.phaseOf_useTurn (s : State) (a : Nat) : s.useTurn.phaseOf a = s.phaseOf a :=
  State.phaseOf_congr (by simp) a

/-- Keeping jobs changes no phase. -/
@[simp] theorem State.phaseOf_setJobs (s : State) (a b : Nat) (jobs : List Job) :
    (s.setJobs a jobs).phaseOf b = s.phaseOf b := by
  by_cases h : a = b
  · subst h; cases hb : s.agents[a]? <;> simp [State.phaseOf, hb]
  · simp [State.phaseOf, h]

/-- Issuing a command changes no phase by itself. -/
@[simp] theorem State.phaseOf_takeJob (s : State) (a b : Nat) (jobs : List Job) :
    (s.takeJob a jobs).phaseOf b = s.phaseOf b := by
  by_cases h : a = b
  · subst h; cases hb : s.agents[a]? <;> simp [State.phaseOf, hb]
  · simp [State.phaseOf, h]

/-- Everything a turn of agent `a` can be: nothing to do; its command in flight; or a command it issues, as the decoder
says. -/
theorem fetchAgent_cases (a : Nat) (s : State) :
    (s.agents[a]? = none ∧ fetchAgent a s = .settled s) ∨
    (s.phaseOf a = some .faulted ∧ fetchAgent a s = .settled s) ∨
    (∃ f, s.phaseOf a = some (.running f) ∧ fetchAgent a s = .run f.instr s) ∨
    (s.phaseOf a = some .idle ∧ fetchAgent a s = .settled (s.setJobs a [])) ∨
    (s.phaseOf a = some .idle ∧ ∃ ag c jobs, s.agents[a]? = some ag ∧ nextCommand ag.last ag.jobs = some (c, jobs) ∧
      fetchAgent a s = fetchIssue c (s.takeJob a jobs)) := by
  unfold fetchAgent
  cases ha : s.agents[a]? with
  | none => exact .inl ⟨rfl, rfl⟩
  | some ag =>
    have hp : s.phaseOf a = some ag.phase := by simp [State.phaseOf, ha]
    cases hq : ag.phase with
    | faulted => exact .inr (.inl ⟨by rw [hp, hq], by simp [hq]⟩)
    | running f => exact .inr (.inr (.inl ⟨f, by rw [hp, hq], by simp [hq]⟩))
    | idle =>
      cases hn : nextCommand ag.last ag.jobs with
      | none => exact .inr (.inr (.inr (.inl ⟨by rw [hp, hq], by simp [hq, hn]⟩)))
      | some cj => exact .inr (.inr (.inr (.inr ⟨by rw [hp, hq], ag, cj.1, cj.2, rfl, hn, by simp [hq, hn]⟩)))

/-- Where a next state of the machine comes from: the block reset; a turn without a step; a step of a command; or an
illegal command's one step. -/
theorem step_cases (h : step s = .next t) :
    s.cfg.admitted = true ∧
    ((s.nextTurn = .blockReset ∧ s.agents.all Agent.quiet = true ∧ t = s.useTurn.blockReset) ∨
     ∃ a, s.nextTurn = .agent a ∧
      (t = s.useTurn.activate a ∨
       (t = (s.useTurn.activate a).setJobs a [] ∧ s.phaseOf a = some .idle) ∨
       (∃ f, s.phaseOf a = some (.running f) ∧ exec f.instr (s.useTurn.activate a) = .next t) ∨
       (s.phaseOf a = some .idle ∧ ∃ ag c jobs, s.agents[a]? = some ag ∧
         nextCommand ag.last ag.jobs = some (c, jobs) ∧
         ((∃ i, decode c = .legal i ∧ exec i ((s.useTurn.activate a).takeJob a jobs) = .next t) ∨
          (decode c = .illegalOpcode ∧ t = illegalOpcodeStep c.word ((s.useTurn.activate a).takeJob a jobs)) ∨
          (decode c = .illegalOperand ∧ t = illegalOperandStep c.word ((s.useTurn.activate a).takeJob a jobs)))))) := by
  simp only [step, fetch] at h
  cases hadm : s.cfg.admitted with
  | false => simp [hadm, takeFetched] at h
  | true =>
    refine ⟨rfl, ?_⟩
    simp only [hadm, if_true] at h
    cases hturn : s.nextTurn with
    | blockReset =>
      simp only [hturn, fetchReset] at h
      split at h
      · rename_i hq; cases h; exact .inl ⟨rfl, by simpa using hq, rfl⟩
      · cases h
    | agent a =>
      refine .inr ⟨a, rfl, ?_⟩
      simp only [hturn] at h
      have hph : (s.useTurn.activate a).phaseOf a = s.phaseOf a := State.phaseOf_congr (by simp) a
      obtain ⟨-, e⟩ | ⟨-, e⟩ | ⟨f, hf, e⟩ | ⟨hi, e⟩ | ⟨hi, ag, c, jobs, hag, hn, e⟩ :=
        fetchAgent_cases a (s.useTurn.activate a) <;>
        simp only [e] at h
      · cases h; exact .inl rfl
      · cases h; exact .inl rfl
      · exact .inr (.inr (.inl ⟨f, hph ▸ hf, h⟩))
      · cases h; exact .inr (.inl ⟨rfl, hph ▸ hi⟩)
      · refine .inr (.inr (.inr ⟨hph ▸ hi, ag, c, jobs, by simpa using hag, hn, ?_⟩))
        simp only [fetchIssue] at h
        cases hd : decode c <;> simp only [hd] at h
        · exact .inl ⟨_, rfl, h⟩
        · cases h; exact .inr (.inl ⟨rfl, rfl⟩)
        · cases h; exact .inr (.inr ⟨rfl, rfl⟩)
        · cases h

end Sys2Proof.Machine
end

