-- ==== Sys2Proof/Tests/Slice0.lean ====
section
/-! SUPPORT. Small tests of the model against the spec, and a witness for the hypotheses of every statement. Expected
values come from the spec: the encoding tables of 30_encoding.md and the vectors of 95_test_vectors.md, named beside
each test. -/

namespace Sys2Proof.Tests

open Sys2Proof.Machine Sys2Proof.Safety

/-! ### Well-formedness (R52): an ill-formed term for each check, and the boundary -/

theorem test_wf_compute_256 : (Instr.crc8Compute (List.replicate 256 0)).wellFormed = false := by decide +kernel

theorem test_wf_compute_255 : (Instr.crc8Compute (List.replicate 255 0)).wellFormed = true := by decide +kernel

theorem test_wf_rom_7 : (Instr.crc8CheckRom (List.replicate 7 0)).wellFormed = false := by decide

theorem test_wf_rom_8 : (Instr.crc8CheckRom (List.replicate 8 0)).wellFormed = true := by decide

theorem test_wf_scratchpad_8 : (Instr.crc8CheckScratchpad (List.replicate 8 0)).wellFormed = false := by decide

theorem test_wf_scratchpad_9 : (Instr.crc8CheckScratchpad (List.replicate 9 0)).wellFormed = true := by decide

/-! ### Decoding: one word per command, bit by bit `OPC`, `OPND` from R54 and R52 -/

theorem test_decode_acquire : decode ⟨0b00000001_00000000, []⟩ = .legal .acquire := by decide

theorem test_decode_release : decode ⟨0b00000010_00000000, []⟩ = .legal .release := by decide

theorem test_decode_readErr : decode ⟨0b00000011_00000000, []⟩ = .legal .readErr := by decide

theorem test_decode_reset : decode ⟨0b00010000_00000000, []⟩ = .legal .reset := by decide

theorem test_decode_writeBit : decode ⟨0b00010001_00000001, []⟩ = .legal (.writeBit 1) := by decide

theorem test_decode_readBit : decode ⟨0b00010010_00000000, []⟩ = .legal .readBit := by decide

theorem test_decode_writeByte : decode ⟨0b00010011_10100101, []⟩ = .legal (.writeByte 0b10100101) := by decide

theorem test_decode_readByte : decode ⟨0b00010100_00000000, []⟩ = .legal .readByte := by decide

/-- P2 row 2: the data byte is `OPND`, the accumulator is payload byte 0. -/
theorem test_decode_crc8Step : decode ⟨0b00100000_00011100, [0xBC]⟩ = .legal (.crc8Step 0x1C 0xBC) := by decide

theorem test_decode_crc8Compute : decode ⟨0b00100001_00000010, [0x02, 0x1C]⟩ = .legal (.crc8Compute [0x02, 0x1C]) := by
  decide

theorem test_decode_crc8CheckRom :
    decode ⟨0b00100010_00000000, [2, 0x1C, 0xB8, 1, 0, 0, 0, 0xA2]⟩ =
      .legal (.crc8CheckRom [2, 0x1C, 0xB8, 1, 0, 0, 0, 0xA2]) := by decide +kernel

theorem test_decode_crc8CheckScratchpad :
    decode ⟨0b00100011_00000000, [0x50, 5, 0x4B, 0x46, 0x7F, 0xFF, 0x0C, 0x10, 0x1C]⟩ =
      .legal (.crc8CheckScratchpad [0x50, 5, 0x4B, 0x46, 0x7F, 0xFF, 0x0C, 0x10, 0x1C]) := by decide +kernel

/-- V-E1 to V-E8. -/
theorem test_decode_illegal_opcodes :
    decode ⟨0x0000, []⟩ = .illegalOpcode ∧ decode ⟨0x0400, []⟩ = .illegalOpcode ∧
    decode ⟨0x0F00, []⟩ = .illegalOpcode ∧ decode ⟨0x1500, []⟩ = .illegalOpcode ∧
    decode ⟨0x1F00, []⟩ = .illegalOpcode ∧ decode ⟨0x2400, []⟩ = .illegalOpcode ∧
    decode ⟨0xFFFF, []⟩ = .illegalOpcode ∧ decode ⟨0x00FF, []⟩ = .illegalOpcode := by decide

/-- V-E9 to V-E11, V-G8, V-B6, V-B9, V-B22. -/
theorem test_decode_illegal_operands :
    decode ⟨0x0301, []⟩ = .illegalOperand ∧ decode ⟨0x1201, []⟩ = .illegalOperand ∧
    decode ⟨0x11FF, []⟩ = .illegalOperand ∧ decode ⟨0x0101, []⟩ = .illegalOperand ∧
    decode ⟨0x1001, []⟩ = .illegalOperand ∧ decode ⟨0x1102, []⟩ = .illegalOperand ∧
    decode ⟨0x14FF, []⟩ = .illegalOperand := by decide

/-- V-C21, V-C29. -/
theorem test_decode_illegal_check_operands :
    decode ⟨0x2201, List.replicate 8 0⟩ = .illegalOperand ∧ decode ⟨0x2301, List.replicate 9 0⟩ = .illegalOperand := by
  decide

/-- V-E14 to V-E16. -/
theorem test_decode_wrong_payload :
    decode ⟨0x2200, List.replicate 7 0⟩ = .payloadLength ∧ decode ⟨0x2105, List.replicate 4 0⟩ = .payloadLength ∧
    decode ⟨0x1000, [0]⟩ = .payloadLength := by decide

/-- The table's numbering: payload byte `k` is bits `16 + 8k` up, and the bits above `nbits` are 0. -/
theorem test_decode_table_numbering :
    decodeTableWord 24 0xBC201C = some (.crc8Step 0x1C 0xBC) ∧ decodeTableWord 16 0x201C = some (.crc8Step 0x1C 0) ∧
    decodeTableWord 16 0x1102 = none := by decide

/-- R51: `OPC`, `OPND`, then the payload. -/
theorem test_byte_stream : (encode (.crc8Step 0x1C 0xBC)).toBytes = [0x20, 0x1C, 0xBC] := by decide

/-- R51: `STATUS`, then `VALUE`; the response of V-E11 has `STATUS` = 0x02. -/
theorem test_response_byte_stream :
    responseBytes (responseWord .illegalOperand 0x00) = [0x02, 0x00] ∧
    responseBytes (responseWord .ok 0x07) = [0x00, 0x07] := by decide

/-! ### The default table (R30) -/

/-- One round of R30. -/
def round (c : Byte) : Byte := (c >>> 1) ^^^ (if c.getLsbD 0 then 0x8C else 0x00)

/-- Each entry is the result of eight rounds from its index. -/
theorem test_default_table :
    ∀ i : Byte, Config.default.crcEntry i = round (round (round (round (round (round (round (round i))))))) := by
  decide +kernel

/-! ### States -/

/-- Two agents and a counter of two bits: the top value is 3 (V-G7). -/
def cfg2 : Config := { Config.default with nAgents := 2, wCnt := 2 }

/-- Reset with two agents. -/
def two : State := State.resetWith cfg2

/-- Agent 0 holds `n` ≥ 1 tokens, and agent `a` moves. -/
def held (n a : Nat) : State := { two with count := n, region := true, owner := some 0, active := a }

/-- Agent 0 in phase `p`. -/
def at0 (s : State) (p : Phase) : State := { s with agents := [⟨p, 0, [], none⟩, Agent.fresh] }

/-- Agent 0, in flight at `f` with one token. -/
def busy (f : Flight) : State := at0 (held 1 0) (.running f)

/-- Agent 0 in the enter window of ACQUIRE (R28 (a)). -/
def entering : State := { at0 two (.running (.acquire .enter)) with count := 1, owner := some 0 }

/-- Agent 0 in the exit window of RELEASE (R28 (b)). -/
def exiting : State := { at0 two (.running (.release .exit)) with region := true, owner := some 0 }

/-- One agent with default parameters that has a command with word `w` and payload `p` to issue, and the turn. -/
def issuing (w : Word) (p : List Byte) : State :=
  { State.reset with turns := [.agent 0], agents := [⟨.idle, 0, [.command ⟨w, p⟩], none⟩] }

/-- A field of the next state, where there is one. -/
def nextOf {α : Type} (f : State → α) : Host.Outcome State Fault Refusal → Option α
  | .next t => some (f t)
  | .fault _ => none
  | .refused _ => none

/-- The refusal, where there is one. -/
def refusalOf : Host.Outcome State Fault Refusal → Option Refusal
  | .next _ => none
  | .fault _ => none
  | .refused r => some r

/-- The last response of agent 0. -/
def last0 (s : State) : Option Word := (s.agents.getD 0 Agent.fresh).last

/-- The kinds of the events so far. -/
def kinds (s : State) : List EventKind := s.hist.map Event.kind

/-! ### The guard family: one step each (95_test_vectors.md, 2.1) -/

/-- V-G1, first event: `Inc(0)` from reset; the region is entered in the next step. -/
theorem test_acquire_counts :
    nextOf (fun t => (t.count, t.region, t.owner, kinds t)) (exec .acquire two) =
      some (1, false, some 0, [.inc 0]) := by decide

/-- V-G10: agent 1 while agent 0 holds a token. The stopped command was issued, so it keeps its place (R64). -/
theorem test_acquire_contends :
    nextOf (fun t => (t.count, t.owner, kinds t, t.phaseOf 1)) (exec .acquire (held 1 1)) =
      some (1, some 0, [.fault .guardContention], some .faulted) ∧
    nextOf (fun t => (t.faults.map FaultRecord.seq, t.seqOf 1)) (exec .acquire (held 1 1)) = some ([0], 1) := by decide

/-- V-G5, first event: RELEASE from reset. -/
theorem test_release_underflows :
    nextOf (fun t => (t.count, t.err, kinds t)) (exec .release two) = some (0, 0x04, [.decUnderflow]) := by decide

/-- V-G12: agent 0 in the exit window takes `Exit`. -/
theorem test_release_exits :
    nextOf (fun t => (t.region, t.owner, kinds t)) (exec .release exiting) = some (false, none, [.exit]) := by decide

/-- V-G6: READ_ERR reads `ERR` and does not clear it. -/
theorem test_readErr_reads :
    nextOf (fun t => (last0 t, t.err)) (exec .readErr { two with err := 0x04 }) = some (some 0x0004, 0x04) := by decide

/-- V-G14: READ_ERR by agent 1 while agent 0 holds a token. -/
theorem test_readErr_does_not_contend :
    nextOf (fun t => (t.faults, t.count)) (exec .readErr (held 1 1)) = some ([], 1) := by decide

/-- V-G11, V-G12: agent 1's increment step in agent 0's enter and exit windows. -/
theorem test_windows_contend :
    nextOf kinds (exec .readBit { entering with active := 1 }) = some [.fault .guardContention] ∧
    nextOf kinds (exec .acquire { exiting with active := 1 }) = some [.fault .guardContention] := by decide

/-! ### The bus family: one step each (95_test_vectors.md, 2.2) -/

/-- V-B1: after the third sample of three the presence window is over. -/
theorem test_reset_gives_up :
    nextOf (fun t => t.phaseOf 0)
        (exec .reset { busy (.reset (.body (.pollDelay 2))) with cfg := { cfg2 with nPp := 3 } }) =
      some (some (.running (.reset (.dec .ok 0x00)))) := by decide

/-- V-B3, V-B5: the first presence sample reads 0; a high wait sample ends the command with 1. -/
theorem test_reset_samples :
    nextOf (fun t => t.phaseOf 0) (exec .reset { busy (.reset (.body (.poll 0))) with draws := [0] }) =
      some (some (.running (.reset (.body .waitSample)))) ∧
    nextOf (fun t => t.phaseOf 0) (exec .reset { busy (.reset (.body .waitSample)) with draws := [1] }) =
      some (some (.running (.reset (.dec .ok 0x01)))) := by decide

/-- V-B7, V-B8: the low time of a write-0 is the slot, that of a write-1 is `T_W1_LOW`. -/
theorem test_writeBit_low_time :
    nextOf kinds (exec (.writeBit 0) (busy (.writeBit 0 (.body .hold)))) = some [.delay .slot] ∧
    nextOf kinds (exec (.writeBit 1) (busy (.writeBit 1 (.body .hold)))) = some [.delay .w1Low] := by decide

/-- V-B24: READ_BIT at the top value of `COUNT`. -/
theorem test_readBit_overflows :
    nextOf (fun t => (kinds t, t.err, t.count)) (exec .readBit (at0 (held 3 0) .idle)) =
      some ([.incOverflow], 0x08, 3) := by decide

/-- V-B11: the level sampled is the draw, and it is kept for `VALUE`. -/
theorem test_readBit_samples :
    nextOf (fun t => (kinds t, t.phaseOf 0, t.draws))
        (exec .readBit { busy (.readBit (.body ⟨0, .sample⟩)) with draws := [1, 0] }) =
      some ([.sample 1], some (.running (.readBit (.body ⟨1, .rest⟩))), [0]) := by decide

/-- V-B14, V-B15: the first slot carries bit 0, the eighth bit 7. -/
theorem test_writeByte_bit_order :
    nextOf kinds (exec (.writeByte 0x01) (busy (.writeByte 0x01 (.body ⟨0, .slot .hold⟩)))) = some [.delay .w1Low] ∧
    nextOf kinds (exec (.writeByte 0x80) (busy (.writeByte 0x80 (.body ⟨7, .slot .hold⟩)))) = some [.delay .w1Low] ∧
    nextOf kinds (exec (.writeByte 0x80) (busy (.writeByte 0x80 (.body ⟨0, .slot .hold⟩)))) = some [.delay .slot] := by
  decide

/-- V-B23: the nested acquire of bit 0 overflows, and the outer token goes back. -/
theorem test_writeByte_nested_overflow :
    nextOf (fun t => (kinds t, t.phaseOf 0))
        (exec (.writeByte 0xFF) (at0 (held 3 0) (.running (.writeByte 0xFF (.body ⟨0, .inc⟩))))) =
      some ([.incOverflow], some (.running (.writeByte 0xFF (.dec .guardOverflow 0x00)))) := by decide

/-- V-B19: the last slot gives bit 7. -/
theorem test_readByte_last_bit :
    nextOf (fun t => t.phaseOf 0) (exec .readByte (busy (.readByte (.body ⟨7, 0x00, 1, .ibd⟩)))) =
      some (some (.running (.readByte (.dec .ok 0x80)))) := by decide

/-- V-B18: the first slot gives bit 0. -/
theorem test_readByte_first_bit :
    nextOf (fun t => t.phaseOf 0) (exec .readByte (busy (.readByte (.body ⟨0, 0x00, 1, .ibd⟩)))) =
      some (some (.running (.readByte (.body ⟨1, 0x01, 0, .inc⟩)))) := by decide

/-! ### The CRC8 family: one step each (95_test_vectors.md, 2.3) -/

/-- V-C1. -/
theorem test_crc8Step : nextOf last0 (exec (.crc8Step 0x1C 0xBC) two) = some (some 0x00AF) := by decide +kernel

/-- V-G15: by agent 1 while agent 0 holds a token; no fault, and the response is agent 1's. -/
theorem test_crc8Step_does_not_contend :
    nextOf (fun t => (t.faults, t.agents.map Agent.last)) (exec (.crc8Step 0x01 0x00) (held 1 1)) =
      some ([], [none, some 0x005E]) := by decide +kernel

/-- V-C7: the check value of "123456789". -/
theorem test_crc8Compute_check_value :
    nextOf last0 (exec (.crc8Compute [0x31, 0x32, 0x33, 0x34, 0x35, 0x36, 0x37, 0x38, 0x39]) two) =
      some (some 0x00A1) := by decide +kernel

/-- V-C6: no bytes. -/
theorem test_crc8Compute_empty : nextOf last0 (exec (.crc8Compute []) two) = some (some 0x0000) := by decide +kernel

/-- V-C13, V-C14. -/
theorem test_crc8CheckRom_valid :
    nextOf last0 (exec (.crc8CheckRom [2, 0x1C, 0xB8, 1, 0, 0, 0, 0xA2]) two) = some (some 0x0007) ∧
    nextOf last0 (exec (.crc8CheckRom [2, 0x1D, 0xB8, 1, 0, 0, 0, 0xA2]) two) = some (some 0x0004) := by decide +kernel

/-- V-C18, V-C19: family 0 with a right and with a wrong CRC. -/
theorem test_crc8CheckRom_family :
    nextOf last0 (exec (.crc8CheckRom [0, 0x1C, 0xB8, 1, 0, 0, 0, 0xD8]) two) = some (some 0x0002) ∧
    nextOf last0 (exec (.crc8CheckRom [0, 0x1C, 0xB8, 1, 0, 0, 0, 0xA2]) two) = some (some 0x0000) := by decide +kernel

/-- V-C22, V-C23. -/
theorem test_crc8CheckScratchpad :
    nextOf last0 (exec (.crc8CheckScratchpad [0x50, 5, 0x4B, 0x46, 0x7F, 0xFF, 0x0C, 0x10, 0x1C]) two) =
      some (some 0x0001) ∧
    nextOf last0 (exec (.crc8CheckScratchpad [0x51, 5, 0x4B, 0x46, 0x7F, 0xFF, 0x0C, 0x10, 0x1C]) two) =
      some (some 0x0000) := by decide +kernel

/-- V-C27, V-C28. -/
theorem test_crc8CheckScratchpad_constant :
    nextOf last0 (exec (.crc8CheckScratchpad (List.replicate 9 0x00)) two) = some (some 0x0001) ∧
    nextOf last0 (exec (.crc8CheckScratchpad (List.replicate 9 0xFF)) two) = some (some 0x0000) := by decide +kernel

/-! ### The boundary (95_test_vectors.md, 2.4) -/

/-- V-E1: an all-zero word. -/
theorem test_step_illegal_opcode :
    nextOf (fun t => (last0 t, t.err, t.faults.map FaultRecord.kind)) (step (issuing 0x0000 [])) =
      some (some 0x0100, 0x01, [.illegalOpcode]) := by decide +kernel

/-- V-E11. -/
theorem test_step_illegal_operand :
    nextOf (fun t => (last0 t, t.err, kinds t)) (step (issuing 0x11FF [])) =
      some (some 0x0200, 0x02, [.respond .illegalOperand 0x00]) := by decide +kernel

/-- V-E14: refused; the block sees nothing. -/
theorem test_step_refuses_payload :
    refusalOf (step (issuing 0x2200 (List.replicate 7 0))) = some .payloadLength := by decide +kernel

/-- R13: a turn runs the first step of the command the word stands for, also when placed by `withFetchWord`. -/
theorem test_step_runs_placed_word :
    nextOf kinds (step (State.reset.withFetchWord 16 0x1000)) = some [.inc 0] := by decide +kernel

/-- R63, R101, R118: a READ_BIT of the poll loop that contention stopped did not read 1, so after a block reset the loop
issues READ_BIT again. -/
theorem test_poll_outlives_contention :
    nextOf kinds (step { State.reset with turns := [.agent 0], agents := [⟨.idle, 1, [.poll true], none⟩] }) =
      some [.inc 0] := by decide +kernel

/-- R119: a reset with a command in flight is refused. -/
theorem test_step_refuses_reset :
    refusalOf (step { busy (.reset .enter) with turns := [.blockReset] }) = some .resetInFlight := by decide +kernel

/-! ### The assembler (R62, R63) -/

/-- R62's rows. -/
theorem test_assemble_rows :
    assemble ["WRITE_BIT 1 ; high", "WRITE_BYTE 0xA5", "", "CRC8_STEP 0x1C, 188"] =
      some [.command ⟨0x1101, []⟩, .command ⟨0x13A5, []⟩, .command ⟨0x201C, [0xBC]⟩] := by decide +kernel

/-- R63's expansions. -/
theorem test_assemble_expands :
    assemble ["GUARDED " ++ String.singleton openBrace, "WRITE_BYTES [0x33, 1]", "READ_BYTES 2",
        String.singleton closeBrace, "POLL_BIT_UNTIL_1"] =
      some [.command ⟨0x0100, []⟩, .command ⟨0x1333, []⟩, .command ⟨0x1301, []⟩, .command ⟨0x1400, []⟩,
        .command ⟨0x1400, []⟩, .command ⟨0x0200, []⟩, .poll false] := by decide +kernel

/-- R62's rejections. -/
theorem test_assemble_rejects :
    assemble ["WRITE_BIT 2"] = none ∧ assemble ["WRITE_BYTE 256"] = none ∧
    assemble ["CRC8_CHECK_ROM [1, 2, 3]"] = none := by decide +kernel

/-- R62's lists of the right length. -/
theorem test_assemble_lists :
    assemble ["CRC8_CHECK_ROM [2, 28, 184, 1, 0, 0, 0, 162]", "CRC8_COMPUTE []"] =
      some [.command ⟨0x2200, [2, 28, 184, 1, 0, 0, 0, 162]⟩, .command ⟨0x2100, []⟩] := by decide +kernel

/-! ### Witnesses: for each statement with hypotheses, a state and operands that meet them together, one for each clause -/

/-- `BlockResetState`: the agents of a configuration. -/
theorem test_witness_block_reset_state : 0 < cfg2.nAgents ∧ 1 < cfg2.nAgents := by decide

/-- A block reset with every agent `IDLE` or `FAULTED`. -/
theorem test_witness_block_reset_quiet :
    (at0 { two with turns := [.blockReset] } .faulted).cfg.admitted = true ∧
    (at0 { two with turns := [.blockReset] } .faulted).turns = .blockReset :: [] ∧
    ∀ ag ∈ (at0 { two with turns := [.blockReset] } .faulted).agents, ag.phase = .idle ∨ ag.phase = .faulted := by
  decide +kernel

/-- A block reset with a command in flight. -/
theorem test_witness_block_reset_busy :
    ({ busy (.reset .enter) with turns := [.blockReset] } : State).cfg.admitted = true ∧
    ({ busy (.reset .enter) with turns := [.blockReset] } : State).turns = .blockReset :: [] ∧
    ∃ ag ∈ ({ busy (.reset .enter) with turns := [.blockReset] } : State).agents, ∃ f, ag.phase = .running f :=
  ⟨by decide +kernel, rfl, ⟨.running (.reset .enter), 0, [], none⟩, .head _, .reset .enter, rfl⟩

/-- `StepRunsDecodedCommand`. -/
theorem test_witness_step_runs_decoded :
    (issuing 0x13A5 []).cfg.admitted = true ∧ (issuing 0x13A5 []).turns = .agent 0 :: [] ∧
    (issuing 0x13A5 []).agents[0]? = some ⟨.idle, 0, .command ⟨0x13A5, []⟩ :: [], none⟩ ∧
    decode ⟨0x13A5, []⟩ = .legal (.writeByte 0xA5) := by decide +kernel

/-- `StepContinuesCommandInFlight`, with a turn chosen from outside. -/
theorem test_witness_step_continues_chosen :
    ({ busy (.reset .enter) with turns := [.agent 0] } : State).cfg.admitted = true ∧
    ({ busy (.reset .enter) with turns := [.agent 0] } : State).phaseOf 0 = some (.running (.reset .enter)) ∧
    ({ busy (.reset .enter) with turns := [.agent 0] } : State).turns = .agent 0 :: [] := by decide +kernel

/-- `StepContinuesCommandInFlight`, at a free turn of the only agent. -/
theorem test_witness_step_continues_free :
    ∃ s : State, s.cfg.admitted = true ∧ s.phaseOf 0 = some (.running (.reset .enter)) ∧ s.turns = [] ∧
      Config.freeTurn s.turnCount % s.cfg.nAgents = 0 :=
  ⟨{ State.reset with agents := [⟨.running (.reset .enter), 0, [], none⟩] }, by decide +kernel, rfl, rfl, Nat.mod_one _⟩

/-- `TurnWithoutAStepPasses`: an agent that is `FAULTED`, one that is not there, one with nothing to issue. -/
theorem test_witness_turn_passes :
    two.cfg.admitted = true ∧ (at0 two .faulted).phaseOf 0 = some .faulted ∧ two.phaseOf 2 = none ∧
    ∃ ag, two.agents[1]? = some ag ∧ ag.phase = .idle ∧ ag.jobs = [] :=
  ⟨by decide +kernel, rfl, rfl, Agent.fresh, rfl, rfl, rfl⟩

/-- The hypotheses on the state in the statements about a word that is not a command. -/
theorem test_witness_issuing (w : Word) (p : List Byte) :
    (issuing w p).cfg.admitted = true ∧ (issuing w p).turns = .agent 0 :: [] ∧
    (issuing w p).agents[0]? = some ⟨.idle, 0, .command ⟨w, p⟩ :: [], none⟩ :=
  ⟨show Config.default.admitted = true by decide +kernel, rfl, rfl⟩

/-- `IllegalOpcodeEffect`: the ends of every range of illegal opcodes; the state is `test_witness_issuing`'s. -/
theorem test_witness_illegal_opcode :
    (opcOf 0x0000).toNat = 0x00 ∧ 0x04 ≤ (opcOf 0x0400).toNat ∧ (opcOf 0x0400).toNat ≤ 0x0F ∧
    (opcOf 0x0F00).toNat = 0x0F ∧ 0x15 ≤ (opcOf 0x1500).toNat ∧ (opcOf 0x1500).toNat ≤ 0x1F ∧
    (opcOf 0x1F00).toNat = 0x1F ∧ 0x24 ≤ (opcOf 0x2400).toNat ∧ 0x24 ≤ (opcOf 0xFF00).toNat := by decide

/-- `IllegalOperandEffect`: formats `N`, `P8`, `P9` with `OPND` = 1, and format `B` with bit 1 set; the state is
`test_witness_issuing`'s. -/
theorem test_witness_illegal_operand :
    (opcOf 0x0101 = Opcode.acquire.code ∧ opcOf 0x0201 = Opcode.release.code ∧ opcOf 0x0301 = Opcode.readErr.code ∧
      opcOf 0x1001 = Opcode.reset.code ∧ opcOf 0x1201 = Opcode.readBit.code ∧ opcOf 0x1401 = Opcode.readByte.code ∧
      payloadLen (opcOf 0x0101) (opndOf 0x0101) = 0 ∧ opndOf 0x0101 ≠ 0x00) ∧
    (opcOf 0x2201 = Opcode.crc8CheckRom.code ∧
      (List.replicate 8 (0 : Byte)).length = payloadLen (opcOf 0x2201) (opndOf 0x2201) ∧ opndOf 0x2201 ≠ 0x00) ∧
    (opcOf 0x2301 = Opcode.crc8CheckScratchpad.code ∧
      (List.replicate 9 (0 : Byte)).length = payloadLen (opcOf 0x2301) (opndOf 0x2301) ∧ opndOf 0x2301 ≠ 0x00) ∧
    opcOf 0x1102 = Opcode.writeBit.code ∧ ([] : List Byte).length = payloadLen (opcOf 0x1102) (opndOf 0x1102) ∧
    (opndOf 0x1102).extractLsb' 1 7 ≠ 0 := by decide

/-- `IllegalOperandEffect`, its second part: the opcodes that take every operand. -/
theorem test_witness_no_illegal_operand :
    opcOf 0x1300 = Opcode.writeByte.code ∧ opcOf 0x20FF = Opcode.crc8Step.code ∧
    opcOf 0x2100 = Opcode.crc8Compute.code := by decide

/-- `WrongPayloadLengthRefused`: one byte too few and one too many. -/
theorem test_witness_wrong_payload :
    (issuing 0x2200 (List.replicate 7 0)).cfg.admitted = true ∧
    (issuing 0x2200 (List.replicate 7 0)).agents[0]? =
      some ⟨.idle, 0, .command ⟨0x2200, List.replicate 7 0⟩ :: [], none⟩ ∧
    (List.replicate 7 (0 : Byte)).length ≠ payloadLen (opcOf 0x2200) (opndOf 0x2200) ∧
    ([0] : List Byte).length ≠ payloadLen (opcOf 0x1000) (opndOf 0x1000) := by decide +kernel

/-- `BrokenConfigurationRefused`: each constraint broken at its boundary. -/
theorem test_witness_broken_configuration :
    ({ cfg2 with tRstLow := 0 } : Config).tRstLow = 0 ∧ ({ cfg2 with tRstSettle := 0 } : Config).tRstSettle = 0 ∧
    ({ cfg2 with tPp := 0 } : Config).tPp = 0 ∧ ({ cfg2 with tWh := 0 } : Config).tWh = 0 ∧
    ({ cfg2 with tSlot := 0 } : Config).tSlot = 0 ∧ ({ cfg2 with tW1Low := 0 } : Config).tW1Low = 0 ∧
    ({ cfg2 with tRdLow := 0 } : Config).tRdLow = 0 ∧ ({ cfg2 with tRdRest := 0 } : Config).tRdRest = 0 ∧
    ({ cfg2 with tIbd := 0 } : Config).tIbd = 0 ∧ ({ cfg2 with nPp := 0 } : Config).nPp < 1 ∧
    ({ cfg2 with wCnt := 0 } : Config).wCnt < 1 ∧
    ({ cfg2 with tW1Low := 80 } : Config).tSlot ≤ ({ cfg2 with tW1Low := 80 } : Config).tW1Low ∧
    ({ cfg2 with tRdSample := 60 } : Config).tRdRest ≤ ({ cfg2 with tRdSample := 60 } : Config).tRdSample := by decide

/-- `StepStopsOnlyAsR105Says`: a state for each refusal. -/
theorem test_witness_refusals :
    refusalOf (step { two with cfg := { cfg2 with nPp := 0 } }) = some .configuration ∧
    refusalOf (step { busy (.reset .enter) with turns := [.blockReset] }) = some .resetInFlight ∧
    refusalOf (step (issuing 0x1000 [0])) = some .payloadLength := by decide +kernel

/-- One agent with the poll loop of R63 to run and a last response. -/
def polling (started : Bool) (last : Option Word) : State :=
  { State.reset with turns := [.agent 0], agents := [⟨.idle, 0, [.poll started], last⟩] }

/-- `PollLoopIsUnbounded`: before the first READ_BIT, and after one that read 0. -/
theorem test_witness_poll :
    (polling false (some 0x0001)).cfg.admitted = true ∧ (polling false (some 0x0001)).turns = .agent 0 :: [] ∧
    (polling false (some 0x0001)).agents[0]? = some ⟨.idle, 0, .poll false :: [], some 0x0001⟩ ∧
    (polling true (some 0x0000)).agents[0]? = some ⟨.idle, 0, .poll true :: [], some 0x0000⟩ ∧
    (false = true → opndOf 0x0001 ≠ 0x01) ∧ opndOf 0x0000 ≠ 0x01 := by decide +kernel

/-- `PollLoopIsUnbounded`: a loop whose READ_BIT contention stopped, after a block reset (the model's choice, log 14). -/
theorem test_witness_poll_after_contention :
    (polling true none).cfg.admitted = true ∧ (polling true none).turns = .agent 0 :: [] ∧
    (polling true none).agents[0]? = some ⟨.idle, 0, .poll true :: [], none⟩ ∧
    (true = true → ∀ w : Word, (none : Option Word) = some w → opndOf w ≠ 0x01) :=
  ⟨by decide +kernel, rfl, rfl, fun _ _ h => (by cases h)⟩

/-- `PollLoopIsUnbounded`, its second part: a READ_BIT of the loop has responded 0x0001. -/
theorem test_witness_poll_ends :
    (polling true (some 0x0001)).cfg.admitted = true ∧ (polling true (some 0x0001)).turns = .agent 0 :: [] ∧
    (polling true (some 0x0001)).agents[0]? = some ⟨.idle, 0, .poll true :: [], some 0x0001⟩ ∧
    opndOf 0x0001 = 0x01 := by decide +kernel

/-- `EveryWordClassified`: a word of each kind, with a payload of its length. -/
theorem test_witness_classified :
    ([] : List Byte).length = payloadLen (opcOf 0x2400) (opndOf 0x2400) ∧
    ([] : List Byte).length = payloadLen (opcOf 0x1102) (opndOf 0x1102) ∧
    (List.replicate 255 (0 : Byte)).length = payloadLen (opcOf 0x21FF) (opndOf 0x21FF) ∧
    (List.replicate 9 (0 : Byte)).length = payloadLen (opcOf 0x2300) (opndOf 0x2300) := by decide +kernel

/-- `EncodeOfDecode`. -/
theorem test_witness_encode_of_decode : decode ⟨0x2102, [0x02, 0x1C]⟩ = .legal (.crc8Compute [0x02, 0x1C]) := by decide

/-- `ByteStreamReadsBack`: a command without and with a payload. -/
theorem test_witness_byte_stream :
    (encode .reset).payload.length = payloadLen (opcOf (encode .reset).word) (opndOf (encode .reset).word) ∧
    (encode (.crc8Compute [1, 2])).payload.length =
      payloadLen (opcOf (encode (.crc8Compute [1, 2])).word) (opndOf (encode (.crc8Compute [1, 2])).word) := by decide

/-- The single-step commands: an idle active agent, also while another agent holds the guard. -/
theorem test_witness_idle : Idle two ∧ Idle (held 1 1) := ⟨rfl, rfl⟩

/-- `Crc8ComputeReturnsCrc`: the shortest and the longest list. -/
theorem test_witness_compute_lengths :
    Idle two ∧ ([] : List Byte).length ≤ 255 ∧ (List.replicate 255 (0 : Byte)).length ≤ 255 :=
  ⟨rfl, by decide, (List.length_replicate ..).le⟩

/-- `CrcResidueIsZero`. -/
theorem test_witness_residue : Config.default.crcEntry 0 = 0 := by decide +kernel

/-- `SingleBitErrorsDetected`: a sequence, and a scratchpad that passes (V-C22), with its last covered byte. -/
theorem test_witness_single_bit :
    0 < ([0x02] : List Byte).length ∧
    ([0x50, 5, 0x4B, 0x46, 0x7F, 0xFF, 0x0C, 0x10, 0x1C] : List Byte).length = 9 ∧ 7 < 8 ∧
    scratchpadOk Config.default [0x50, 5, 0x4B, 0x46, 0x7F, 0xFF, 0x0C, 0x10, 0x1C] = true := by decide +kernel

/-- `AcquireTakesAToken` and the bus commands: the guard free, and the agent's own below the top value. -/
theorem test_witness_acquire :
    (Idle two ∧ GuardOpen two ∧ two.count ≠ two.cfg.maxCount) ∧
    Idle (held 2 0) ∧ GuardOpen (held 2 0) ∧ (held 2 0).count ≠ (held 2 0).cfg.maxCount :=
  ⟨⟨rfl, .inl rfl, by decide⟩, rfl, .inr rfl, by decide⟩

/-- `ReleaseGivesBackAToken`: the last token, and one of two. -/
theorem test_witness_release :
    (Idle (held 1 0) ∧ GuardOpen (held 1 0) ∧ (held 1 0).count ≠ 0) ∧
    Idle (held 2 0) ∧ GuardOpen (held 2 0) ∧ (held 2 0).count ≠ 0 :=
  ⟨⟨rfl, .inr rfl, by decide⟩, rfl, .inr rfl, by decide⟩

/-- `ReleaseUnderflows`. -/
theorem test_witness_underflow : Idle two ∧ GuardOpen two ∧ two.count = 0 := ⟨rfl, .inl rfl, rfl⟩

/-- `AcquireOverflows`: two bits, three tokens (V-G7). -/
theorem test_witness_overflow :
    acquires (.writeBit 1) = true ∧ Idle (held 3 0) ∧ GuardOpen (held 3 0) ∧
    (held 3 0).count = (held 3 0).cfg.maxCount := ⟨rfl, rfl, .inr rfl, by decide⟩

/-- `ContentionStopsTheNewcomer` (V-G10). -/
theorem test_witness_contention :
    guarded .release = true ∧ Idle (held 1 1) ∧ (held 1 1).owner = some 0 ∧ 0 ≠ (held 1 1).active :=
  ⟨rfl, rfl, rfl, by decide⟩

/-- `ContentionStopsAtEveryGuardStep`: a nested increment step while agent 1 is the owner. -/
theorem test_witness_contention_inside :
    ({ busy (.readByte (.body ⟨3, 0, 0, .inc⟩)) with owner := some 1 } : State).phaseOf 0 =
      some (.running (.readByte (.body ⟨3, 0, 0, .inc⟩))) ∧
    flightCounts (.readByte (.body ⟨3, 0, 0, .inc⟩)) = true ∧
    ({ busy (.readByte (.body ⟨3, 0, 0, .inc⟩)) with owner := some 1 } : State).owner = some 1 ∧
    1 ≠ ({ busy (.readByte (.body ⟨3, 0, 0, .inc⟩)) with owner := some 1 } : State).active := by decide

/-- `EnterWindowIsOpenForOneStep`. -/
theorem test_witness_enter_window :
    acquires .readByte = true ∧ Idle two ∧ two.owner = none ∧ two.count = 0 ∧ two.region = false ∧
    two.cfg.maxCount ≠ 0 := ⟨rfl, rfl, rfl, rfl, rfl, by decide⟩

/-- `ExitWindowIsOpenForOneStep`. -/
theorem test_witness_exit_window :
    Idle (held 1 0) ∧ (held 1 0).owner = some (held 1 0).active ∧ (held 1 0).count = 1 ∧ (held 1 0).region = true :=
  ⟨rfl, rfl, rfl, rfl⟩

/-- `ExitWindowIsOpenForOneStep`: the decrement step that ends a bus command's bracket, at the last token. -/
theorem test_witness_exit_window_bracket :
    (busy (.writeBit 0 (.dec .ok 0x00))).phaseOf 0 = some (.running (.writeBit 0 (.dec .ok 0x00))) ∧
    flightReleases (.writeBit 0 (.dec .ok 0x00)) = true ∧ (busy (.writeBit 0 (.dec .ok 0x00))).owner = some 0 ∧
    (busy (.writeBit 0 (.dec .ok 0x00))).count = 1 ∧ (busy (.writeBit 0 (.dec .ok 0x00))).region = true := by decide

/-- `ReentrancyKeepsTheRegion`. -/
theorem test_witness_reentrancy :
    Idle (held 2 0) ∧ (held 2 0).owner = some (held 2 0).active ∧ (held 2 0).count ≠ 0 ∧
    (held 2 0).count ≠ (held 2 0).cfg.maxCount := ⟨rfl, rfl, by decide, by decide⟩

/-- The byte commands: two tokens below the top value, at `COUNT` = 0 and above. -/
theorem test_witness_byte_commands :
    (Idle two ∧ GuardOpen two ∧ two.count ≠ two.cfg.maxCount ∧ two.count + 1 ≠ two.cfg.maxCount) ∧
    Idle (held 1 0) ∧ GuardOpen (held 1 0) ∧ (held 1 0).count ≠ (held 1 0).cfg.maxCount ∧
    (held 1 0).count + 1 ≠ (held 1 0).cfg.maxCount :=
  ⟨⟨rfl, .inl rfl, by decide, by decide⟩, rfl, .inr rfl, by decide, by decide⟩

/-- `ResetFindsPresence`: the draws of V-B4: presence on sample 2, one low wait sample. -/
theorem test_witness_presence :
    Idle { two with draws := [1, 1, 0, 0, 1] } ∧ GuardOpen { two with draws := [1, 1, 0, 0, 1] } ∧
    two.count ≠ two.cfg.maxCount ∧ 2 < two.cfg.nPp ∧ (∀ m, m < 2 → levelAt { two with draws := [1, 1, 0, 0, 1] } m = 1) ∧
    levelAt { two with draws := [1, 1, 0, 0, 1] } 2 = 0 ∧
    (∀ m, m < 1 → levelAt { two with draws := [1, 1, 0, 0, 1] } (2 + 1 + m) = 0) ∧
    levelAt { two with draws := [1, 1, 0, 0, 1] } (2 + 1 + 1) = 1 :=
  ⟨rfl, .inl rfl, by decide, by decide, by decide, by decide, by decide, by decide⟩

/-- V-B1: a budget of three samples that all read 1. -/
def absent3 : State := { two with cfg := { cfg2 with nPp := 3 }, draws := [1, 1, 1] }

/-- `ResetFindsNobody`. -/
theorem test_witness_nobody :
    Idle absent3 ∧ GuardOpen absent3 ∧ absent3.count ≠ absent3.cfg.maxCount ∧
    ∀ m, m < absent3.cfg.nPp → levelAt absent3 m = 1 := ⟨rfl, .inl rfl, by decide, by decide⟩

/-- `ResetWaitHasNoBound`: two low samples. -/
theorem test_witness_wait :
    ({ busy (.reset (.body .waitSample)) with draws := [0, 0] } : State).phaseOf 0 =
      some (.running (.reset (.body .waitSample))) ∧
    (busy (.reset (.body .waitSample))).lineDrive = .released ∧
    ∀ m, m < 2 → levelAt { busy (.reset (.body .waitSample)) with draws := [0, 0] } m = 0 := by decide

/-- `NestedOverflowStopsAByteCommand` (V-B23). -/
theorem test_witness_nested_overflow :
    Idle (held 2 0) ∧ GuardOpen (held 2 0) ∧ (held 2 0).count + 1 = (held 2 0).cfg.maxCount :=
  ⟨rfl, .inr rfl, by decide⟩

/-- The frames of `exec`: a guarded command, a guard command and a single-step command each have a next state. -/
theorem test_witness_exec_next :
    (∃ t, exec .readBit two = .next t) ∧ (∃ t, exec .release (held 1 0) = .next t) ∧
    guarded (.crc8Step 1 0) = false ∧ ∃ t, exec (.crc8Step 1 0) two = .next t :=
  ⟨⟨_, rfl⟩, ⟨_, rfl⟩, rfl, _, rfl⟩

/-- `ErrIsSticky`: a next state after a block reset, and after another turn. -/
theorem test_witness_err_sticky :
    (∃ t, step { two with turns := [.blockReset], err := 0x03 } = .next t) ∧
    ({ two with turns := [.blockReset], err := 0x03 } : State).nextTurn = .blockReset ∧
    (∃ t, step { issuing 0x0000 [] with err := 0x02 } = .next t) ∧
    ({ issuing 0x0000 [] with err := 0x02 } : State).nextTurn ≠ .blockReset :=
  ⟨⟨_, rfl⟩, rfl, ⟨_, rfl⟩, by decide⟩

/-- `FaultRecordsOnlyGrow`, `StatusErrorsAreRecorded`: the step of an illegal opcode. -/
theorem test_witness_status_error :
    ∃ t, step (issuing 0x0000 []) = .next t ∧ (issuing 0x0000 []).nextTurn ≠ .blockReset ∧
      t.hist = (issuing 0x0000 []).hist ++ [⟨0, 0, .respond .illegalOpcode 0x00⟩] ∧ Status.illegalOpcode ≠ .ok :=
  ⟨_, rfl, by decide, rfl, by decide⟩

/-- The phases of a state whose agent 0 is at `p`. -/
theorem phaseOf_at0 {s : State} {p q : Phase} {a : Nat} (h : (at0 s p).phaseOf a = some q) :
    (a = 0 ∧ q = p) ∨ (a = 1 ∧ q = .idle) := by
  match a, h with
  | 0, h => cases h; exact .inl ⟨rfl, rfl⟩
  | 1, h => cases h; exact .inr ⟨rfl, rfl⟩
  | _ + 2, h => cases h

/-- Agent 0 at the sample of READ_BIT, holding its token, with a turn and a draw. -/
def sampling : State :=
  { busy (.readBit (.body ⟨0, .sample⟩)) with turns := [.agent 0], draws := [1] }

/-- `StepKeepsTheInvariant`, `EverySampleIsADraw`, `OnlyOneAgentHoldsTheGuard`: a busy state that meets the invariant
and has a next state, which adds a sample. -/
theorem test_witness_invariant :
    Inv sampling ∧ (∃ t, step sampling = .next t) ∧
    (∃ t, exec .readBit sampling = .next t ∧ t.hist = sampling.hist ++ [⟨0, 0, .sample 1⟩]) ∧
    phaseHold (.running (.readBit (.body ⟨0, .sample⟩))) ≠ .free ∧
    sampling.phaseOf 0 = some (.running (.readBit (.body ⟨0, .sample⟩))) := by
  refine ⟨⟨by decide +kernel, rfl, by decide, by decide, fun h => (by cases h), fun o h => ?_, fun a q h hq => ?_⟩,
    ⟨_, rfl⟩, ⟨_, rfl, rfl⟩, by decide, rfl⟩
  · cases h; exact ⟨_, rfl, ⟨by decide, by decide, rfl⟩, rfl⟩
  · obtain ⟨rfl, rfl⟩ | ⟨rfl, rfl⟩ := phaseOf_at0 (s := held 1 0) h
    · rfl
    · exact absurd rfl hq

/-- Agent 0 inside a slot: the line is driven. -/
def driving : State := { busy (.writeBit 0 (.body .hold)) with lineDrive := .driven }

/-- `LineIsReleasedBetweenCommands`: a driven line that meets the invariant, and a quiet state. -/
theorem test_witness_line :
    Inv driving ∧ driving.lineDrive = .driven ∧ Inv (held 1 0) ∧
    ∀ ag ∈ (held 1 0).agents, ag.phase = .idle ∨ ag.phase = .faulted := by
  refine ⟨⟨by decide +kernel, rfl, by decide, by decide, fun h => (by cases h), fun o h => ?_, fun a q h hq => ?_⟩, rfl,
    ⟨by decide +kernel, rfl, by decide, by decide, fun h => (by cases h), fun o h => ?_, fun a q h hq => ?_⟩, by decide⟩
  · cases h; exact ⟨_, rfl, ⟨by decide, by decide, rfl⟩, rfl⟩
  · obtain ⟨rfl, rfl⟩ | ⟨rfl, rfl⟩ := phaseOf_at0 (s := held 1 0) h
    · rfl
    · exact absurd rfl hq
  · cases h; exact ⟨_, rfl, ⟨by decide, rfl⟩, rfl⟩
  · obtain ⟨rfl, rfl⟩ | ⟨rfl, rfl⟩ := phaseOf_at0 (s := held 1 0) (p := .idle) h
    · exact absurd rfl hq
    · exact absurd rfl hq

/-- `HistAccountsForTheRegisters`: a history that ends in the enter window, and a next state. -/
theorem test_witness_replay :
    HistAgrees { entering with hist := [⟨0, 0, .inc 0⟩], turns := [.agent 0] } ∧
    ∃ t, step { entering with hist := [⟨0, 0, .inc 0⟩], turns := [.agent 0] } = .next t := ⟨rfl, _, rfl⟩

/-- An agent that has set `ERR.UNF` and has not responded yet. -/
def underflowed : State :=
  { at0 two (.running (.release (.respond .guardUnderflow))) with err := 0x04, turns := [.agent 0] }

/-- `ErrIsAccountedFor`, `ErrorResponsesCarryNoValue`: the response of an underflow, whose record is still to come, from
a state that meets the invariant. -/
theorem test_witness_err_recorded :
    Inv underflowed ∧ ErrRecorded underflowed ∧ ErrorsHaveNoValue underflowed ∧
    ∃ t, step underflowed = .next t ∧ t.hist = underflowed.hist ++ [⟨0, 0, .respond .guardUnderflow 0x00⟩] ∧
      Status.guardUnderflow ≠ .ok := by
  refine ⟨⟨by decide +kernel, rfl, by decide, by decide, fun _ => ⟨rfl, rfl, rfl⟩, fun o h => (by cases h),
    fun a q h hq => ?_⟩, fun _ => .inr ⟨0, _, _, _, rfl, rfl, by decide⟩, fun a f st v h hr _ => ?_, _, rfl, rfl,
    by decide⟩
  · obtain ⟨rfl, rfl⟩ | ⟨rfl, rfl⟩ := phaseOf_at0 (s := two) h
    · exact absurd rfl hq
    · exact absurd rfl hq
  · obtain ⟨rfl, h⟩ | ⟨rfl, h⟩ := phaseOf_at0 (s := two) h
    · cases h; cases hr; rfl
    · cases h

/-- `ErrIsAccountedFor`, its second part: the reset state is a success. -/
theorem test_witness_success : ErrRecorded two ∧ Success two :=
  ⟨fun h => absurd rfl h, by decide, rfl, rfl, rfl, rfl, rfl⟩

/-- `NominalDurations`: the commands without a guard step, ACQUIRE and RELEASE, and the bus commands; the levels of RESET
are those of `test_witness_presence` and `test_witness_nobody`, whose states meet these hypotheses too. -/
theorem test_witness_durations :
    two.cfg.admitted = true ∧ Idle two ∧ GuardOpen two ∧ two.count ≠ two.cfg.maxCount ∧
    two.count + 1 ≠ two.cfg.maxCount ∧ absent3.cfg.admitted = true ∧
    guarded (.crc8CheckRom (List.replicate 8 0)) = false ∧ (Instr.crc8CheckRom (List.replicate 8 0)).wellFormed = true :=
  ⟨by decide +kernel, rfl, .inl rfl, by decide, by decide, by decide +kernel, rfl, by decide⟩

/-- `RunsTo`: CRC8_STEP's whole run is its one response. -/
theorem test_runs_to :
    ∃ t, RunsTo (.crc8Step 0x1C 0xBC) two [.respond .ok (two.cfg.crcEntry 0xA0)] t :=
  ⟨_, rfl, [], .ok, _, _, rfl, fun _ _ h => (by cases h), rfl, rfl, rfl⟩

/-- `AssemblerChecksOperands`: for each row with operands, operands that are taken and operands that are not, at the
ends of their ranges. -/
theorem test_witness_assembler :
    (1 < 2 ∧ ¬ 2 < 2) ∧ (255 < 256 ∧ ¬ 256 < 256) ∧
    ((List.replicate 255 255).length ≤ 255 ∧ ∀ n ∈ List.replicate 255 255, n < 256) ∧
    ¬ (List.replicate 256 0).length ≤ 255 ∧
    ((List.replicate 8 255).length = 8 ∧ ∀ n ∈ List.replicate 8 255, n < 256) ∧ (List.replicate 7 0).length ≠ 8 ∧
    ((List.replicate 9 255).length = 9 ∧ ∀ n ∈ List.replicate 9 255, n < 256) ∧ (List.replicate 10 0).length ≠ 9 ∧
    256 ∈ [1, 2, 3, 4, 5, 6, 7, 256] := by decide +kernel

end Sys2Proof.Tests
end

section
/-! PROOFS. The block reset's state (R32), and `ERR` as a sticky register (R22): every step but the block reset only adds
to `ERR` the bit of a status. -/

namespace Sys2Proof.Machine

/-! ### The state after a block reset -/

/-- Every agent of a configuration is `IDLE` after a block reset (R32). -/
theorem State.phaseOf_resetWith {c : Config} {a : Nat} (ha : a < c.nAgents) :
    (State.resetWith c).phaseOf a = some .idle := by
  simp [State.phaseOf, State.resetWith, ha, Agent.fresh]

/-- Settles O1: the registers are as `State.resetWith` writes them, and its agents are `N_AGENTS` fresh ones. -/
theorem blockResetState : Obligations.BlockResetState := fun _ =>
  ⟨rfl, rfl, rfl, rfl, rfl, fun _ ha => State.phaseOf_resetWith ha, rfl, rfl, rfl⟩

/-! ### `ERR` is sticky -/

@[simp] theorem State.counted_err (s : State) (a : Nat) : (s.counted a).err = s.err := rfl
@[simp] theorem State.uncounted_err (s : State) (a : Nat) : (s.uncounted a).err = s.err := rfl
@[simp] theorem illegalOpcodeStep_err (w : Word) (s : State) :
    (illegalOpcodeStep w s).err = s.err ||| Status.errBit .illegalOpcode := by
  simp [illegalOpcodeStep, illegalStep]
@[simp] theorem illegalOperandStep_err (w : Word) (s : State) :
    (illegalOperandStep w s).err = s.err ||| Status.errBit .illegalOperand := by
  simp [illegalOperandStep, illegalStep]

/-- `OK` adds nothing to `ERR` (R21). -/
@[simp] theorem or_errBit_ok (e : Byte) : e ||| Status.errBit .ok = e := BitVec.or_zero

/-- What a step of a command does to `ERR`: only overflow and underflow add a bit, their own (R68, R69). -/
theorem Effect.err_eq_or_errBit {a : Nat} {w : Word} {s t : State} (h : Effect a w s t) :
    ∃ st : Status, t.err = s.err ||| st.errBit := by
  cases h with
  | overflow => exact ⟨.guardOverflow, by simp⟩
  | underflow => exact ⟨.guardUnderflow, by simp⟩
  | contention | counted | enter | uncounted | exit | driveLow | lineRelease | delay | sample | respond =>
    exact ⟨.ok, by simp⟩

/-- What any step but the block reset does to `ERR`: it adds the bit of one status, which for `OK` is none (R21, R99). -/
theorem step_err_eq_or_errBit {s t : State} (h : step s = .next t) (hturn : s.nextTurn ≠ .blockReset) :
    ∃ st : Status, t.err = s.err ||| st.errBit := by
  obtain ⟨-, ⟨hreset, -⟩ | ⟨a, -, rfl | ⟨rfl, -⟩ | ⟨f, -, hexec⟩ | ⟨-, -, c, jobs, -, -, hissue⟩⟩⟩ := step_cases h
  · exact absurd hreset hturn
  · exact ⟨.ok, by simp⟩
  · exact ⟨.ok, by simp⟩
  · simpa using (exec_effect hexec).err_eq_or_errBit
  · obtain ⟨i, -, hexec⟩ | ⟨-, rfl⟩ | ⟨-, rfl⟩ := hissue
    · simpa using (exec_effect hexec).err_eq_or_errBit
    · exact ⟨.illegalOpcode, by simp⟩
    · exact ⟨.illegalOperand, by simp⟩

/-- The block reset's step clears `ERR` (R118). -/
theorem step_err_of_blockReset {s t : State} (h : step s = .next t) (hturn : s.nextTurn = .blockReset) :
    t.err = 0x00 := by
  obtain ⟨-, ⟨-, -, rfl⟩ | ⟨a, hagent, -⟩⟩ := step_cases h
  · rfl
  · rw [hturn] at hagent; cases hagent

/-- Bits added to a byte leave the bits it had. -/
theorem or_and_self_left (e b : Byte) : (e ||| b) &&& e = e := by
  ext k hk
  rw [BitVec.getElem_and, BitVec.getElem_or]
  cases e[k] <;> simp

/-- Settles O47: a block reset clears `ERR`, and every other step only adds bits to it. -/
theorem errIsSticky : Obligations.ErrIsSticky := by
  intro s t h
  by_cases hturn : s.nextTurn = .blockReset
  · exact .inl ⟨hturn, step_err_of_blockReset h hturn⟩
  · obtain ⟨st, hst⟩ := step_err_eq_or_errBit h hturn
    exact .inr ⟨hturn, by rw [hst, or_and_self_left]⟩

end Sys2Proof.Machine
end

section
/-! PROOFS. The decoder as a classification of command words (R54, R55, R56, R59, R60, R61), and the step that issues a
command. -/

namespace Sys2Proof.Laws

/-! ### The opcode map, read backwards -/

/-- A byte names an opcode exactly where it is the opcode's code (R54). -/
theorem ofByte_eq_some_iff {b : Byte} {o : Opcode} : Opcode.ofByte b = some o ↔ b = o.code :=
  ⟨fun h => (code_of_ofByte h).symm, fun h => h ▸ ofByte_code o⟩

/-- A byte is one of the codes of `os` exactly where it names an opcode of `os`. -/
theorem mem_map_code_iff {b : Byte} {os : List Opcode} :
    b ∈ os.map Opcode.code ↔ ∃ o ∈ os, Opcode.ofByte b = some o := by
  simp only [List.mem_map, ofByte_eq_some_iff, eq_comm (a := b)]

/-- A byte that names no opcode is no opcode's code. -/
theorem ne_code_of_ofByte_eq_none {b : Byte} (h : Opcode.ofByte b = none) (o : Opcode) : b ≠ o.code := by
  rintro rfl
  cases (ofByte_code o).symm.trans h

/-- The bytes that name no opcode are those of R59's ranges. -/
theorem ofByte_eq_none_iff {b : Byte} :
    Opcode.ofByte b = none ↔
      b.toNat = 0x00 ∨ (0x04 ≤ b.toNat ∧ b.toNat ≤ 0x0F) ∨ (0x15 ≤ b.toNat ∧ b.toNat ≤ 0x1F) ∨ 0x24 ≤ b.toNat := by
  simp only [Opcode.ofByte, Opcode.all, Opcode.code, List.find?_eq_none, List.mem_cons, List.not_mem_nil, or_false,
    forall_eq_or_imp, forall_eq, beq_iff_eq, ← BitVec.toNat_inj, BitVec.ofNat_eq_ofNat, BitVec.toNat_ofNat,
    Nat.reducePow, Nat.one_mod, Nat.reduceMod]
  omega

/-! ### The payload length -/

/-- Settles O16: a byte that names no opcode is none of the four codes and has length 0; the code of an opcode has that
opcode's length. -/
theorem payloadLengthByOpcode : Obligations.PayloadLengthByOpcode := by
  intro opc opnd
  cases h : Opcode.ofByte opc with
  | none =>
    have hne := ne_code_of_ofByte_eq_none h
    have hstep : opc ≠ 0x20 := hne .crc8Step
    have hcompute : opc ≠ 0x21 := hne .crc8Compute
    have hrom : opc ≠ 0x22 := hne .crc8CheckRom
    have hscratchpad : opc ≠ 0x23 := hne .crc8CheckScratchpad
    simp only [payloadLen, h]
    rw [if_neg hstep, if_neg hcompute, if_neg hrom, if_neg hscratchpad]
  | some o =>
    obtain rfl := ofByte_eq_some_iff.mp h
    simp only [payloadLen, h]
    cases o <;> rfl

/-! ### What a command decodes to -/

/-- The opcodes of formats `N`, `P8` and `P9`, whose operand is 0x00 (R60 (a)). -/
def zeroOperandOpcodes : List Opcode :=
  [.acquire, .release, .readErr, .reset, .readBit, .readByte, .crc8CheckRom, .crc8CheckScratchpad]

/-- The opcodes of formats `D`, `S` and `L`, which have no illegal operand (R60). -/
def anyOperandOpcodes : List Opcode := [.writeByte, .crc8Step, .crc8Compute]

/-- The operands R60 leaves an opcode: 0x00, or bits 7:1 zero for WRITE_BIT (R60 (b)), or any. -/
def OperandLegal (o : Opcode) (opnd : Byte) : Prop :=
  (o ∈ zeroOperandOpcodes ∧ opnd = 0x00) ∨ (o = .writeBit ∧ opnd.extractLsb' 1 7 = 0) ∨ o ∈ anyOperandOpcodes

/-- The operands that are not legal, as R60 lists them. -/
theorem not_operandLegal_iff {o : Opcode} {opnd : Byte} :
    ¬ OperandLegal o opnd ↔
      (o ∈ zeroOperandOpcodes ∧ opnd ≠ 0x00) ∨ (o = .writeBit ∧ opnd.extractLsb' 1 7 ≠ 0) := by
  cases o <;> simp [OperandLegal, zeroOperandOpcodes, anyOperandOpcodes]

/-- Operand assembly gives a command for a legal operand and rejects every other (R60). -/
theorem decodeOperands_cases (o : Opcode) (opnd : Byte) (p : List Byte) :
    (OperandLegal o opnd ∧ ∃ i, decodeOperands o opnd p = .legal i) ∨
    (¬ OperandLegal o opnd ∧ decodeOperands o opnd p = .illegalOperand) := by
  rw [not_operandLegal_iff]
  cases o with
  | writeBit =>
    by_cases h : opnd.extractLsb' 1 7 = 0
    · exact .inl ⟨.inr (.inl ⟨rfl, h⟩), _, if_pos h⟩
    · exact .inr ⟨.inr ⟨rfl, h⟩, if_neg h⟩
  | writeByte | crc8Step | crc8Compute => exact .inl ⟨.inr (.inr (by decide)), _, rfl⟩
  | acquire | release | readErr | reset | readBit | readByte | crc8CheckRom | crc8CheckScratchpad =>
    by_cases h : opnd = 0
    · exact .inl ⟨.inl ⟨by decide, h⟩, _, if_pos h⟩
    · exact .inr ⟨.inl ⟨by decide, h⟩, if_neg h⟩

/-- A payload of the wrong length is no command (R56). -/
theorem decode_of_length_ne {c : Command} (h : c.payload.length ≠ payloadLen (opcOf c.word) (opndOf c.word)) :
    decode c = .payloadLength :=
  if_neg h

/-- Everything a command with a payload of the right length can decode to: an illegal opcode, where its `OPC` names no
opcode; else a legal command or an illegal operand, as its `OPND` says (R61). -/
theorem decode_cases {c : Command} (h : c.payload.length = payloadLen (opcOf c.word) (opndOf c.word)) :
    (Opcode.ofByte (opcOf c.word) = none ∧ decode c = .illegalOpcode) ∨
    ∃ o, Opcode.ofByte (opcOf c.word) = some o ∧
      ((OperandLegal o (opndOf c.word) ∧ ∃ i, decode c = .legal i) ∨
       (¬ OperandLegal o (opndOf c.word) ∧ decode c = .illegalOperand)) := by
  unfold decode
  rw [if_pos h]
  cases Opcode.ofByte (opcOf c.word) with
  | none => exact .inl ⟨rfl, rfl⟩
  | some o => exact .inr ⟨o, rfl, decodeOperands_cases o (opndOf c.word) c.payload⟩

section RightLength

variable {c : Command} (hlen : c.payload.length = payloadLen (opcOf c.word) (opndOf c.word))
include hlen

/-- An illegal opcode is an `OPC` that names no opcode (R59). -/
theorem decode_eq_illegalOpcode_iff : decode c = .illegalOpcode ↔ Opcode.ofByte (opcOf c.word) = none := by
  obtain ⟨ho, hd⟩ | ⟨o, ho, ⟨-, i, hd⟩ | ⟨-, hd⟩⟩ := decode_cases hlen <;> simp [ho, hd]

/-- An illegal operand is one that is not legal for the opcode named (R60). -/
theorem decode_eq_illegalOperand_iff :
    decode c = .illegalOperand ↔ ∃ o, Opcode.ofByte (opcOf c.word) = some o ∧ ¬ OperandLegal o (opndOf c.word) := by
  obtain ⟨ho, hd⟩ | ⟨o, ho, ⟨hl, i, hd⟩ | ⟨hl, hd⟩⟩ := decode_cases hlen <;> simp [*]

/-- A legal command is an opcode with an operand legal for it (R61). -/
theorem exists_decode_eq_legal_iff :
    (∃ i, decode c = .legal i) ↔
      ∃ o, Opcode.ofByte (opcOf c.word) = some o ∧ OperandLegal o (opndOf c.word) := by
  obtain ⟨ho, hd⟩ | ⟨o, ho, ⟨hl, i, hd⟩ | ⟨hl, hd⟩⟩ := decode_cases hlen <;> simp [*]

end RightLength

/-- The legal operands, by the codes of R54. -/
theorem exists_operandLegal_iff {opc opnd : Byte} :
    (∃ o, Opcode.ofByte opc = some o ∧ OperandLegal o opnd) ↔
      (opc ∈ zeroOperandOpcodes.map Opcode.code ∧ opnd = 0x00) ∨
      (opc = Opcode.writeBit.code ∧ opnd.extractLsb' 1 7 = 0) ∨ opc ∈ anyOperandOpcodes.map Opcode.code := by
  simp only [mem_map_code_iff, ← ofByte_eq_some_iff, OperandLegal]
  aesop

/-- The illegal operands, by the codes of R54. -/
theorem exists_not_operandLegal_iff {opc opnd : Byte} :
    (∃ o, Opcode.ofByte opc = some o ∧ ¬ OperandLegal o opnd) ↔
      (opc ∈ zeroOperandOpcodes.map Opcode.code ∧ opnd ≠ 0x00) ∨
      (opc = Opcode.writeBit.code ∧ opnd.extractLsb' 1 7 ≠ 0) := by
  simp only [mem_map_code_iff, ← ofByte_eq_some_iff, not_operandLegal_iff]
  aesop

/-- Settles O12: each of the decoder's three answers is a condition on the opcode named and its operand, and the codes
of R54 turn that into R59's ranges and R60's lists. -/
theorem everyWordClassified : Obligations.EveryWordClassified := fun _ _ hlen =>
  ⟨(decode_eq_illegalOpcode_iff hlen).trans ofByte_eq_none_iff,
   (decode_eq_illegalOperand_iff hlen).trans exists_not_operandLegal_iff,
   (exists_decode_eq_legal_iff hlen).trans exists_operandLegal_iff⟩

end Sys2Proof.Laws

namespace Sys2Proof.Machine

/-! ### Issuing a command -/

section Issue

variable {s : State} {a : Nat} {rest : List Turn} {ag : Agent} {c : Command} {jobs : List Job}

/-- The turn of an idle agent whose next job is a command issues it (R50). -/
theorem fetchAgent_of_command (hag : s.agents[a]? = some ag) (hidle : ag.phase = .idle)
    (hjobs : ag.jobs = .command c :: jobs) : fetchAgent a s = fetchIssue c (s.takeJob a jobs) := by
  simp [fetchAgent, hag, hidle, hjobs, nextCommand]

/-- A step at the turn of an idle agent whose next job is a command takes the decoder's answer to it (R14, R50). -/
theorem step_of_command (hadm : s.cfg.admitted = true) (hturns : s.turns = .agent a :: rest)
    (hag : s.agents[a]? = some ag) (hidle : ag.phase = .idle) (hjobs : ag.jobs = .command c :: jobs) :
    step s = takeFetched (fetchIssue c ((s.useTurn.activate a).takeJob a jobs)) := by
  have hturn : s.nextTurn = .agent a := by simp [State.nextTurn, hturns]
  have hagent := fetchAgent_of_command (s := s.useTurn.activate a) (by simpa using hag) hidle hjobs
  simp only [step, fetch, hadm, if_true, hturn, hagent]

end Issue

/-- Settles O8: the command is issued, and the decoder's answer to it is a refusal. -/
theorem wrongPayloadLengthRefused : Obligations.WrongPayloadLengthRefused := by
  intro s a rest ag c jobs hadm hturns hag hidle hjobs hlen
  rw [step_of_command hadm hturns hag hidle hjobs]
  simp only [fetchIssue, Laws.decode_of_length_ne hlen, takeFetched]

end Sys2Proof.Machine
end

section
/-! PROOFS. The CRC of a byte sequence (42_crc8.md): where the fold starts, its first byte, and how it splits at
any point. -/

namespace Sys2Proof.Machine

section Fold

variable (c : Config) (seed b : Byte)

/-- R87: the loop over no bytes returns `acc = seed`. -/
@[simp] theorem crc8_nil : crc8 c seed [] = seed := rfl

/-- R86, R87: the first byte is the first one looked up, and its entry is the seed of the rest. -/
@[simp] theorem crc8_cons (bs : List Byte) : crc8 c seed (b :: bs) = crc8 c (c.crcEntry (seed ^^^ b)) bs := rfl

/-- R87: the fold goes on over `ys` from where `xs` left the accumulator. -/
theorem crc8_append (xs ys : List Byte) : crc8 c seed (xs ++ ys) = crc8 c (crc8 c seed xs) ys := List.foldl_append

end Fold

/-- Settles O20: the first byte is folded first (`crc8_cons`), and a last byte is folded from what the bytes before it
leave (`crc8_append`). -/
theorem crc8FoldsLeftToRight : Obligations.Crc8FoldsLeftToRight := fun c seed b bs =>
  have hlast : crc8 c seed (bs ++ [b]) = c.crcEntry (crc8 c seed bs ^^^ b) := by
    rw [crc8_append, crc8_cons, crc8_nil]
  ⟨crc8_nil c seed, crc8_cons c seed b bs, hlast⟩

end Sys2Proof.Machine
end

section
/-! PROOFS. The admitted configurations (R125), and the step that refuses every other one (R105 (c)). -/

namespace Sys2Proof

/-- The constraints of R125 on a configuration. -/
structure Config.MeetsR125 (c : Config) : Prop where
  tRstLow_pos : 0 < c.tRstLow
  tRstSettle_pos : 0 < c.tRstSettle
  tPp_pos : 0 < c.tPp
  tWh_pos : 0 < c.tWh
  tSlot_pos : 0 < c.tSlot
  tW1Low_pos : 0 < c.tW1Low
  tRdLow_pos : 0 < c.tRdLow
  tRdRest_pos : 0 < c.tRdRest
  tIbd_pos : 0 < c.tIbd
  one_le_nPp : 1 ≤ c.nPp
  one_le_wCnt : 1 ≤ c.wCnt
  tW1Low_lt_tSlot : c.tW1Low < c.tSlot
  tRdSample_lt_tRdRest : c.tRdSample < c.tRdRest

/-- The admitted configurations: those that meet R125, with an agent (R6) and a table of 256 entries that maps 0x00 to
itself (R29). -/
theorem Config.admitted_iff {c : Config} :
    c.admitted = true ↔
      c.MeetsR125 ∧ 1 ≤ c.nAgents ∧ c.crcTable.length = 16 ∧ (∀ row ∈ c.crcTable, row.length = 16) ∧
        c.crcEntry 0 = 0 := by
  simp only [Config.admitted, List.all_cons, List.all_nil, id, Bool.and_true, Bool.and_eq_true, decide_eq_true_eq,
    List.all_eq_true]
  constructor
  · rintro ⟨hAgents, hCnt, hPolls, hRstLow, hSettle, hPp, hWh, hSlot, hW1, hRdLow, hRest, hIbd, hWrite, hRead, htable⟩
    exact ⟨⟨hRstLow, hSettle, hPp, hWh, hSlot, hW1, hRdLow, hRest, hIbd, hPolls, hCnt, hWrite, hRead⟩, hAgents, htable⟩
  · rintro ⟨⟨hRstLow, hSettle, hPp, hWh, hSlot, hW1, hRdLow, hRest, hIbd, hPolls, hCnt, hWrite, hRead⟩, hAgents, htable⟩
    exact ⟨hAgents, hCnt, hPolls, hRstLow, hSettle, hPp, hWh, hSlot, hW1, hRdLow, hRest, hIbd, hWrite, hRead, htable⟩

end Sys2Proof

namespace Sys2Proof.Machine

/-- The configuration is checked before anything else of the state (R105 (c)). -/
theorem step_of_not_admitted {s : State} (h : ¬ s.cfg.admitted = true) : step s = .refused .configuration := by
  simp only [step, fetch, if_neg h, takeFetched]

/-- Settles O9: each of the cases contradicts a constraint that an admitted configuration meets. -/
theorem brokenConfigurationRefused : Obligations.BrokenConfigurationRefused := by
  intro s hbroken
  refine step_of_not_admitted fun hadm => ?_
  obtain ⟨hRstLow, hSettle, hPp, hWh, hSlot, hW1, hRdLow, hRest, hIbd, hPolls, hCnt, hWrite, hRead⟩ :=
    (Config.admitted_iff.mp hadm).1
  omega

end Sys2Proof.Machine
end

section
/-! PROOFS. The encoder and the decoder undo each other (30_encoding.md), on command words and on byte streams. -/

namespace Sys2Proof.Laws

/-! ### Decode of encode -/

/-- The payload of an encoded well-formed command has the length its word gives (R55). -/
theorem encodeLength (i : Instr) : EncodeLength.Statement i := by
  cases i with
  | acquire => exact EncodeLength.acquire
  | release => exact EncodeLength.release
  | readErr => exact EncodeLength.readErr
  | reset => exact EncodeLength.reset
  | writeBit bit => exact EncodeLength.writeBit bit
  | readBit => exact EncodeLength.readBit
  | writeByte byte => exact EncodeLength.writeByte byte
  | readByte => exact EncodeLength.readByte
  | crc8Step data acc => exact EncodeLength.crc8Step data acc
  | crc8Compute bytes => exact EncodeLength.crc8Compute bytes
  | crc8CheckRom rom => exact EncodeLength.crc8CheckRom rom
  | crc8CheckScratchpad sp => exact EncodeLength.crc8CheckScratchpad sp

/-- Format `B`: the operand byte of a bit has bits 7:1 zero and the bit at position 0 (R52). -/
theorem extractLsb'_setWidth_bit (bit : Bit) :
    (bit.setWidth 8).extractLsb' 1 7 = 0 ∧ (bit.setWidth 8).extractLsb' 0 1 = bit := by
  revert bit; decide

/-- Operand assembly gives a command back from its own opcode, operand byte and payload (R52, R53). -/
theorem decodeOperands_encode (i : Instr) : decodeOperands i.opcode i.opnd i.payload = .legal i := by
  cases i with
  | writeBit bit =>
    obtain ⟨hhigh, hlow⟩ := extractLsb'_setWidth_bit bit
    simp only [Instr.opcode, Instr.opnd, decodeOperands, hhigh, hlow, if_true]
  | acquire | release | readErr | reset | readBit | writeByte | readByte | crc8Step | crc8Compute | crc8CheckRom
  | crc8CheckScratchpad => rfl

/-- A command with a payload of the right length and an `OPC` that names an opcode decodes as its operand says. -/
theorem decode_of_ofByte {c : Command} {o : Opcode}
    (hlen : c.payload.length = payloadLen (opcOf c.word) (opndOf c.word)) (ho : Opcode.ofByte (opcOf c.word) = some o) :
    decode c = decodeOperands o (opndOf c.word) c.payload := by
  unfold decode
  rw [if_pos hlen, ho]

/-- A well-formed instruction is read back from its command word and payload. -/
theorem decode_encode {i : Instr} (h : i.wellFormed = true) : decode (encode i) = .legal i := by
  have hopc : Opcode.ofByte (opcOf (encode i).word) = some i.opcode := by
    rw [show opcOf (encode i).word = i.opcode.code from opcOf_word i, ofByte_code]
  rw [decode_of_ofByte (encodeLength i h) hopc, show opndOf (encode i).word = i.opnd from opndOf_word i]
  exact decodeOperands_encode i

/-- Settles O13: the length fits, the opcode is read back from its code, and the operands from theirs. -/
theorem decodeOfEncode : Obligations.DecodeOfEncode := fun _ h => decode_encode h

/-! ### Encode of decode -/

/-- Formats `N`, `P8` and `P9` give the command only for `OPND` = 0x00 (R60 (a)). -/
theorem decodeZero_eq_legal_iff {opnd : Byte} {i j : Instr} : decodeZero opnd i = .legal j ↔ opnd = 0 ∧ i = j := by
  unfold decodeZero; split <;> simp_all

/-- An operand byte with bits 7:1 zero is its bit 0, widened (R52). -/
theorem setWidth_extractLsb'_bit {opnd : Byte} (h : opnd.extractLsb' 1 7 = 0) :
    (opnd.extractLsb' 0 1).setWidth 8 = opnd := by
  revert opnd; decide

/-- What operand assembly reads, for a payload of the length of R55: a well-formed instruction with that opcode, operand
byte and payload. -/
theorem decodeOperands_eq_legal {o : Opcode} {opnd : Byte} {p : List Byte} {i : Instr}
    (hlen : p.length = payloadLen o.code opnd) (h : decodeOperands o opnd p = .legal i) :
    i.opcode = o ∧ i.opnd = opnd ∧ i.payload = p ∧ i.wellFormed = true := by
  simp only [payloadLen, ofByte_code] at hlen
  cases o with
  | acquire | release | readErr | reset | readBit | readByte =>
    obtain ⟨rfl, rfl⟩ := decodeZero_eq_legal_iff.mp h
    exact ⟨rfl, rfl, (List.eq_nil_of_length_eq_zero hlen).symm, rfl⟩
  | writeBit =>
    simp only [decodeOperands] at h
    split at h
    · rename_i hhigh
      cases h
      exact ⟨rfl, setWidth_extractLsb'_bit hhigh, (List.eq_nil_of_length_eq_zero hlen).symm, rfl⟩
    · cases h
  | writeByte => cases h; exact ⟨rfl, rfl, (List.eq_nil_of_length_eq_zero hlen).symm, rfl⟩
  | crc8Step =>
    obtain ⟨acc, rfl⟩ := List.length_eq_one_iff.mp hlen
    cases h; exact ⟨rfl, rfl, rfl, rfl⟩
  | crc8Compute =>
    cases h
    have hlen : p.length = opnd.toNat := hlen
    have hle : p.length ≤ 255 := by have := opnd.isLt; omega
    exact ⟨rfl, by simp [Instr.opnd, hlen], rfl, by simpa [Instr.wellFormed] using hle⟩
  | crc8CheckRom | crc8CheckScratchpad =>
    obtain ⟨rfl, rfl⟩ := decodeZero_eq_legal_iff.mp h
    exact ⟨rfl, rfl, rfl, by simpa [Instr.wellFormed] using hlen⟩

/-- What a command that decodes to an instruction has: the right length, and an opcode whose operands it holds. -/
theorem decode_eq_legal {c : Command} {i : Instr} (h : decode c = .legal i) :
    ∃ o, opcOf c.word = o.code ∧ c.payload.length = payloadLen o.code (opndOf c.word) ∧
      decodeOperands o (opndOf c.word) c.payload = .legal i := by
  by_cases hlen : c.payload.length = payloadLen (opcOf c.word) (opndOf c.word)
  · cases ho : Opcode.ofByte (opcOf c.word) with
    | none => rw [(decode_eq_illegalOpcode_iff hlen).mpr ho] at h; cases h
    | some o =>
      have hcode := ofByte_eq_some_iff.mp ho
      exact ⟨o, hcode, hcode ▸ hlen, decode_of_ofByte hlen ho ▸ h⟩
  · rw [decode_of_length_ne hlen] at h; cases h

/-- Settles O14: the instruction has the command's opcode, operand byte and payload, so it is encoded as the command. -/
theorem encodeOfDecode : Obligations.EncodeOfDecode := by
  intro c i h
  obtain ⟨o, hopc, hlen, hoperands⟩ := decode_eq_legal h
  obtain ⟨hopcode, hopnd, hpayload, hwf⟩ := decodeOperands_eq_legal hlen hoperands
  have hword : i.word = c.word := by
    rw [Instr.word, hopcode, hopnd, ← hopc, opc_append_opnd]
  exact ⟨by rw [encode, hword, hpayload], hwf⟩

/-- Settles O15: each of the twelve words is computed. -/
theorem writtenWordsDecode : Obligations.WrittenWordsDecode := by
  unfold Obligations.WrittenWordsDecode
  decide

/-! ### Byte streams -/

/-- Reading a command's bytes gives the command back and leaves the bytes after it (R51). -/
theorem decodeBytes_toBytes_append {c : Command} (rest : List Byte)
    (hlen : c.payload.length = payloadLen (opcOf c.word) (opndOf c.word)) :
    decodeBytes (c.toBytes ++ rest) = some (decode c, rest) := by
  simp only [Command.toBytes, List.cons_append, decodeBytes, opc_append_opnd, ← hlen, List.take_left', List.drop_left']

/-- Settles O17: a command's bytes are read back, and a response's two bytes are the halves of its word. -/
theorem byteStreamReadsBack : Obligations.ByteStreamReadsBack :=
  ⟨fun _ rest hlen => ⟨rfl, decodeBytes_toBytes_append rest hlen⟩,
   fun status value =>
    congrArg₂ (fun status value => [status, value]) (opcOf_append status.code value) (opndOf_append status.code value)⟩

end Sys2Proof.Laws
end

section
/-! PROOFS. The frame of a step (R26, R46, R100): its one event, what that event says of the registers, and the replay
of `HIST` (R65, R66, R34). -/

namespace Sys2Proof.Machine

open Sys2Proof.Safety

/-! ### Taking and giving back a token, and a response's record -/

section Tokens

variable (s : State) (a : Nat)

@[simp] theorem State.counted_cfg : (s.counted a).cfg = s.cfg := rfl
@[simp] theorem State.counted_count : (s.counted a).count = s.count + 1 := rfl
@[simp] theorem State.counted_region : (s.counted a).region = s.region := rfl
@[simp] theorem State.counted_lineDrive : (s.counted a).lineDrive = s.lineDrive := rfl
@[simp] theorem State.counted_agents : (s.counted a).agents = s.agents := rfl
@[simp] theorem State.counted_owner : (s.counted a).owner = if s.count = 0 then some a else s.owner := rfl
@[simp] theorem State.counted_hist : (s.counted a).hist = s.hist ++ [⟨a, s.seqOf a, .inc s.count⟩] := rfl
@[simp] theorem State.counted_faults : (s.counted a).faults = s.faults := rfl
@[simp] theorem State.counted_active : (s.counted a).active = s.active := rfl
@[simp] theorem State.counted_turns : (s.counted a).turns = s.turns := rfl
@[simp] theorem State.counted_turnCount : (s.counted a).turnCount = s.turnCount := rfl
@[simp] theorem State.counted_draws : (s.counted a).draws = s.draws := rfl
@[simp] theorem State.counted_drawCount : (s.counted a).drawCount = s.drawCount := rfl

@[simp] theorem State.uncounted_cfg : (s.uncounted a).cfg = s.cfg := rfl
@[simp] theorem State.uncounted_count : (s.uncounted a).count = s.count - 1 := rfl
@[simp] theorem State.uncounted_region : (s.uncounted a).region = s.region := rfl
@[simp] theorem State.uncounted_lineDrive : (s.uncounted a).lineDrive = s.lineDrive := rfl
@[simp] theorem State.uncounted_agents : (s.uncounted a).agents = s.agents := rfl
@[simp] theorem State.uncounted_owner : (s.uncounted a).owner = s.owner := rfl
@[simp] theorem State.uncounted_hist : (s.uncounted a).hist = s.hist ++ [⟨a, s.seqOf a, .dec (s.count - 1)⟩] := rfl
@[simp] theorem State.uncounted_faults : (s.uncounted a).faults = s.faults := rfl
@[simp] theorem State.uncounted_active : (s.uncounted a).active = s.active := rfl
@[simp] theorem State.uncounted_turns : (s.uncounted a).turns = s.turns := rfl
@[simp] theorem State.uncounted_turnCount : (s.uncounted a).turnCount = s.turnCount := rfl
@[simp] theorem State.uncounted_draws : (s.uncounted a).draws = s.draws := rfl
@[simp] theorem State.uncounted_drawCount : (s.uncounted a).drawCount = s.drawCount := rfl

/-- What `respond` changes (R26, R57, R100): its event, the record of its status, which `OK` has none of, and its
agent. -/
theorem State.respond_eq (w : Word) (st : Status) (v : Byte) :
    s.respond a w st v = { s with
      hist := s.hist ++ [⟨a, s.seqOf a, .respond st v⟩]
      faults := s.faults ++ (st.faultKind.map (FaultRecord.mk a (s.seqOf a) w)).toList
      agents := s.agents.modify a (fun ag => ag.responded st v) } := by
  unfold State.respond State.recordStatus
  cases st.faultKind with
  | none => simp [State.modifyAgent, State.log]
  | some k => rfl

/-- A response adds the record of its status (R100). -/
theorem State.respond_faults (w : Word) (st : Status) (v : Byte) :
    (s.respond a w st v).faults = s.faults ++ (st.faultKind.map (FaultRecord.mk a (s.seqOf a) w)).toList := by
  rw [State.respond_eq]

end Tokens

/-! ### The frame of an effect -/

section Frame

variable {a : Nat} {w : Word} {s t : State}

/-- A step changes no agent but its own (R46). -/
theorem Effect.agents_eq_modify (h : Effect a w s t) : ∃ f, t.agents = s.agents.modify a f := by
  cases h with
  | contention | overflow | counted | enter | underflow | uncounted | exit | driveLow | lineRelease | delay | sample
  | respond => exact ⟨_, by simp; rfl⟩

/-- A step leaves the parameters and the turns. -/
theorem Effect.cfg_active_turns (h : Effect a w s t) :
    t.cfg = s.cfg ∧ t.active = s.active ∧ t.turns = s.turns ∧ t.turnCount = s.turnCount := by
  cases h <;> simp

/-- What the event `k` of a step from `s` to `t` says of the registers: each is changed by the events of its own steps
only. -/
structure EventFrame (k : EventKind) (s t : State) : Prop where
  count : (∀ n, k ≠ .inc n) → (∀ n, k ≠ .dec n) → t.count = s.count
  region : k ≠ .enter → k ≠ .exit → t.region = s.region
  lineDrive : k ≠ .driveLow → k ≠ .lineRelease → t.lineDrive = s.lineDrive
  err : k ≠ .incOverflow → k ≠ .decUnderflow → t.err = s.err
  owner : k ≠ .inc 0 → k ≠ .exit → t.owner = s.owner
  draws : (∀ l, k ≠ .sample l) → t.draws = s.draws ∧ t.drawCount = s.drawCount
  faults : (∀ q v, k = .respond q v → q = .ok) → (∀ q, k ≠ .fault q) → t.faults = s.faults

/-- A step appends one event of its agent, and that event says what changed. -/
theorem Effect.exists_event (h : Effect a w s t) :
    ∃ k, t.hist = s.hist ++ [⟨a, s.seqOf a, k⟩] ∧ EventFrame k s t := by
  cases h with
  | contention => exact ⟨.fault .guardContention, rfl, by constructor <;> simp⟩
  | overflow => exact ⟨.incOverflow, rfl, by constructor <;> simp⟩
  | counted => exact ⟨.inc s.count, rfl, by constructor <;> simp +contextual⟩
  | enter => exact ⟨.enter, rfl, by constructor <;> simp⟩
  | underflow => exact ⟨.decUnderflow, rfl, by constructor <;> simp⟩
  | uncounted => exact ⟨.dec (s.count - 1), rfl, by constructor <;> simp⟩
  | exit => exact ⟨.exit, rfl, by constructor <;> simp⟩
  | driveLow => exact ⟨.driveLow, rfl, by constructor <;> simp⟩
  | lineRelease => exact ⟨.lineRelease, rfl, by constructor <;> simp⟩
  | delay name => exact ⟨.delay name, rfl, by constructor <;> simp⟩
  | sample => exact ⟨.sample s.level, by simp, by constructor <;> simp⟩
  | respond status value =>
    refine ⟨.respond status value, by simp, ⟨?_, ?_, ?_, ?_, ?_, ?_, fun hok _ => ?_⟩⟩
    case refine_7 => obtain rfl := hok _ _ rfl; rfl
    all_goals simp

end Frame

/-- Settles O44: the step is one of the twelve effects, and each has its event and the frame of that event. -/
theorem oneEventPerStepAndItsFrame : Obligations.OneEventPerStepAndItsFrame := by
  intro i s t h
  have heffect := exec_effect h
  obtain ⟨k, hhist, hframe⟩ := heffect.exists_event
  obtain ⟨hcfg, hactive, hturns, hturnCount⟩ := heffect.cfg_active_turns
  obtain ⟨f, hagents⟩ := heffect.agents_eq_modify
  have hothers : ∀ b, b ≠ s.active → t.agents[b]? = s.agents[b]? := fun b hb => by
    simp [hagents, Ne.symm hb]
  exact ⟨k, hhist, hcfg, hactive, hturns, hturnCount, by simp [hagents], hothers, hframe.count, hframe.region,
    hframe.lineDrive, hframe.err, hframe.owner, hframe.draws, hframe.faults⟩

/-! ### The single-step commands and the guard commands -/

/-- A response with `OK` changes `HIST` and its agent only. -/
theorem respond_ok_eq (s : State) (w : Word) (v : Byte) :
    s.respond s.active w .ok v = { s with hist := histWith s [.respond .ok v], agents := agentsAfter s .ok v } := rfl

/-- The commands that take no guard step are the single-step ones (R74, R91). -/
theorem startOf_eq_none_iff {i : Instr} : startOf i = none ↔ guarded i = false := by
  cases i <;> simp [startOf, guarded]

/-- A command in flight takes guard steps. -/
theorem guarded_instr (f : Flight) : guarded f.instr = true := by
  cases f <;> rfl

/-- Settles O45: a command without a guard step is never in flight, so its step is its one response. -/
theorem singleStepCommandsTouchNothing : Obligations.SingleStepCommandsTouchNothing := by
  intro i s t hguarded h
  obtain ⟨f, rfl, -⟩ | ⟨-, -, v, rfl⟩ := exec_cases h
  · rw [guarded_instr] at hguarded; cases hguarded
  · exact ⟨v, respond_ok_eq s i.word v⟩

/-- The events of the line primitives and `Delay` (R34). -/
def isLineEvent : EventKind → Bool
  | .driveLow => true
  | .lineRelease => true
  | .delay _ => true
  | .sample _ => true
  | _ => false

/-- The event of an increment step is no line event. -/
theorem acquireStep_event (a : Nat) (w : Word) (ovf enter onward : Phase) (s : State) :
    ∃ k, (acquireStep a w ovf enter onward s).hist = s.hist ++ [⟨a, s.seqOf a, k⟩] ∧ isLineEvent k = false := by
  obtain ⟨-, e⟩ | ⟨-, -, e⟩ | ⟨-, -, e⟩ := acquireStep_cases a w ovf enter onward s <;> rw [e]
  · exact ⟨.fault .guardContention, rfl, rfl⟩
  · exact ⟨.incOverflow, rfl, rfl⟩
  · exact ⟨.inc s.count, rfl, rfl⟩

/-- The event of a decrement step is no line event. -/
theorem releaseStep_event (a : Nat) (w : Word) (udf exit onward : Phase) (s : State) :
    ∃ k, (releaseStep a w udf exit onward s).hist = s.hist ++ [⟨a, s.seqOf a, k⟩] ∧ isLineEvent k = false := by
  obtain ⟨-, e⟩ | ⟨-, -, e⟩ | ⟨-, -, e⟩ := releaseStep_cases a w udf exit onward s <;> rw [e]
  · exact ⟨.fault .guardContention, rfl, rfl⟩
  · exact ⟨.decUnderflow, rfl, rfl⟩
  · exact ⟨.dec (s.count - 1), rfl, rfl⟩

/-- The event of a step of ACQUIRE or RELEASE is no line event. -/
theorem guardCommand_event {f : Flight} (hf : f.instr = .acquire ∨ f.instr = .release) (a : Nat) (s : State) :
    ∃ k, (flightStep a f s).hist = s.hist ++ [⟨a, s.seqOf a, k⟩] ∧ isLineEvent k = false := by
  cases f with
  | acquire pc =>
    cases pc with
    | inc => exact acquireStep_event ..
    | enter => exact ⟨.enter, rfl, rfl⟩
    | respond status => exact ⟨.respond status 0x00, by simp [flightStep, acquireCommandStep], rfl⟩
  | release pc =>
    cases pc with
    | dec => exact releaseStep_event ..
    | exit => exact ⟨.exit, rfl, rfl⟩
    | respond status => exact ⟨.respond status 0x00, by simp [flightStep, releaseCommandStep], rfl⟩
  | reset | writeBit | readBit | writeByte | readByte => simp [Flight.instr] at hf

/-- Settles O46: the step's event is no line event, and so leaves the line and the draws. -/
theorem guardCommandsLeaveTheLine : Obligations.GuardCommandsLeaveTheLine := by
  intro i s t hi h
  obtain ⟨k, hhist, hframe⟩ := (exec_effect h).exists_event
  have hline : isLineEvent k = false := by
    obtain ⟨f, rfl, rfl, -⟩ | ⟨hstart, -⟩ := exec_cases h
    · obtain ⟨k', hhist', hk'⟩ := guardCommand_event hi s.active s
      simp only [hhist', List.append_cancel_left_eq, List.cons.injEq, Event.mk.injEq, true_and, and_true] at hhist
      exact hhist ▸ hk'
    · obtain rfl | rfl := hi <;> cases hstart
  have hk : k ≠ .driveLow ∧ k ≠ .lineRelease ∧ (∀ name, k ≠ .delay name) ∧ (∀ l, k ≠ .sample l) := by
    refine ⟨?_, ?_, fun _ => ?_, fun _ => ?_⟩ <;> rintro rfl <;> cases hline
  obtain ⟨hlow, hup, hdelay, hsample⟩ := hk
  obtain ⟨hdraws, hdrawCount⟩ := hframe.draws hsample
  exact ⟨hframe.lineDrive hlow hup, hdraws, hdrawCount, k, hhist, hlow, hup, hdelay, hsample⟩

/-! ### What a step of the machine is -/

/-- The block is the same in `u` as in `s`: what differs is the host's side, the turns and an agent's jobs. -/
structure SameBlock (s u : State) : Prop where
  cfg : u.cfg = s.cfg
  count : u.count = s.count
  region : u.region = s.region
  lineDrive : u.lineDrive = s.lineDrive
  err : u.err = s.err
  owner : u.owner = s.owner
  hist : u.hist = s.hist
  faults : u.faults = s.faults
  agents : u.agents.length = s.agents.length
  phaseOf : ∀ a, u.phaseOf a = s.phaseOf a

/-- A turn taken from the choices leaves the block. -/
theorem sameBlock_useTurn (s : State) : SameBlock s s.useTurn := by
  constructor <;> simp [State.phaseOf]

/-- A turn of agent `a` leaves the block. -/
theorem sameBlock_activate (s : State) (a : Nat) : SameBlock s (s.useTurn.activate a) := by
  constructor <;> simp [State.phaseOf]

/-- Keeping jobs leaves the block. -/
theorem SameBlock.setJobs {s u : State} (h : SameBlock s u) (a : Nat) (jobs : List Job) :
    SameBlock s (u.setJobs a jobs) := by
  constructor <;> simp [h.cfg, h.count, h.region, h.lineDrive, h.err, h.owner, h.hist, h.faults, h.agents, h.phaseOf]

/-- Issuing a command leaves the block. -/
theorem SameBlock.takeJob {s u : State} (h : SameBlock s u) (a : Nat) (jobs : List Job) :
    SameBlock s (u.takeJob a jobs) := by
  constructor <;> simp [h.cfg, h.count, h.region, h.lineDrive, h.err, h.owner, h.hist, h.faults, h.agents, h.phaseOf]

/-- `w` is the word of the command agent `a` has in flight or, if it is idle, issues next. -/
def Commanded (s : State) (a : Nat) (w : Word) : Prop :=
  (∃ f, s.phaseOf a = some (.running f) ∧ w = f.instr.word) ∨
  ∃ ag c jobs, s.agents[a]? = some ag ∧ ag.phase = .idle ∧ nextCommand ag.last ag.jobs = some (c, jobs) ∧ w = c.word

/-- What a step of the machine from `s` can be: the block reset; a turn that passes; one step of a command of the turn's
agent; or an illegal command of it. -/
inductive StepCase (s : State) : State → Prop where
  | reset (hturn : s.nextTurn = .blockReset) : StepCase s s.useTurn.blockReset
  | passed {u : State} {a : Nat} (hturn : s.nextTurn = .agent a) (hu : SameBlock s u) : StepCase s u
  | ran {u t : State} {i : Instr} (hturn : s.nextTurn = .agent u.active) (hu : SameBlock s u)
      (hword : Commanded s u.active i.word) (hexec : exec i u = .next t) : StepCase s t
  | illegal {u : State} {st : Status} {w : Word} (hturn : s.nextTurn = .agent u.active) (hu : SameBlock s u)
      (hidle : u.phaseOf u.active = some .idle) (hword : Commanded s u.active w)
      (hst : st = .illegalOpcode ∨ st = .illegalOperand) : StepCase s (illegalStep st w u)

/-- Every next state of the machine is one of these. -/
theorem step_stepCase {s t : State} (h : step s = .next t) : s.cfg.admitted = true ∧ StepCase s t := by
  obtain ⟨hadm, ⟨hturn, -, rfl⟩ | ⟨a, hturn, hagent⟩⟩ := step_cases h
  · exact ⟨hadm, .reset hturn⟩
  refine ⟨hadm, ?_⟩
  have hu := sameBlock_activate s a
  obtain rfl | ⟨rfl, -⟩ | ⟨f, hf, hexec⟩ | ⟨hidle, ag, c, jobs, hag, hnext, hissue⟩ := hagent
  · exact .passed hturn hu
  · exact .passed hturn (hu.setJobs a [])
  · exact .ran hturn hu (.inl ⟨f, hf, rfl⟩) hexec
  · have hphase : ag.phase = .idle := by simpa [State.phaseOf, hag] using hidle
    have hword : Commanded s a c.word := .inr ⟨ag, c, jobs, hag, hphase, hnext, rfl⟩
    have hu := hu.takeJob a jobs
    have hidle := (hu.phaseOf a).trans hidle
    obtain ⟨i, hdecode, hexec⟩ | ⟨-, rfl⟩ | ⟨-, rfl⟩ := hissue
    · have hencode : i.word = c.word := congrArg Command.word (Laws.encodeOfDecode c i hdecode).1
      exact .ran hturn hu (hencode ▸ hword) hexec
    · exact .illegal hturn hu hidle hword (.inl rfl)
    · exact .illegal hturn hu hidle hword (.inr rfl)

/-! ### The replay of `HIST` -/

/-- One more event in a history is one more step of the replay. -/
theorem replay_concat (hist : List Event) (e : Event) : replay (hist ++ [e]) = (replay hist).apply e :=
  List.foldl_append

/-- A step of a command does to the registers what its event says (R20, R25, R65, R66). -/
theorem Effect.histAgrees {a : Nat} {w : Word} {s t : State} (h : Effect a w s t) (hs : HistAgrees s) :
    HistAgrees t := by
  unfold HistAgrees at hs ⊢
  cases h with
  | contention | overflow | counted | enter | underflow | uncounted | exit | driveLow | lineRelease | delay | sample
  | respond => simp [replay_concat, hs, Replay.apply]

/-- An illegal command's response leaves the registers of the replay. -/
theorem illegalStep_histAgrees {st : Status} {w : Word} {s : State} (hs : HistAgrees s) :
    HistAgrees (illegalStep st w s) := by
  unfold HistAgrees at hs ⊢
  simp [illegalStep, replay_concat, hs, Replay.apply]

/-- `HIST` accounts for the registers of any state with the same block. -/
theorem SameBlock.histAgrees {s u : State} (hu : SameBlock s u) (hs : HistAgrees s) : HistAgrees u := by
  unfold HistAgrees at hs ⊢
  rw [hu.hist, hs, hu.count, hu.region, hu.lineDrive, hu.owner]

/-- Settles O56: the empty history gives the reset values, and each event is replayed as its step. -/
theorem histAccountsForTheRegisters : Obligations.HistAccountsForTheRegisters := by
  refine ⟨fun _ => rfl, fun s t hs h => ?_⟩
  cases (step_stepCase h).2 with
  | reset => rfl
  | passed _ hu => exact hu.histAgrees hs
  | ran _ hu _ hexec => exact (exec_effect hexec).histAgrees (hu.histAgrees hs)
  | illegal _ hu => exact illegalStep_histAgrees (hu.histAgrees hs)

/-! ### Records and responses -/

/-- A step of a command adds at most one record (R100). -/
theorem Effect.exists_faults {a : Nat} {w : Word} {s t : State} (h : Effect a w s t) :
    ∃ new : List FaultRecord, t.faults = s.faults ++ new ∧ new.length ≤ 1 := by
  cases h with
  | contention => exact ⟨[_], rfl, le_rfl⟩
  | respond status value =>
    refine ⟨_, State.respond_faults s a w status value, ?_⟩
    cases status.faultKind <;> simp
  | overflow | counted | enter | underflow | uncounted | exit | driveLow | lineRelease | delay | sample =>
    exact ⟨[], by simp, by simp⟩

/-- Settles O48: only a contention and a response add a record, and each adds one. -/
theorem faultRecordsOnlyGrow : Obligations.FaultRecordsOnlyGrow := by
  intro s t h hturn
  cases (step_stepCase h).2 with
  | reset hreset => exact absurd hreset hturn
  | passed _ hu => exact ⟨[], by simp [hu.faults], by simp⟩
  | ran _ hu _ hexec => exact hu.faults ▸ (exec_effect hexec).exists_faults
  | @illegal u st w _ hu _ _ _ =>
    exact hu.faults ▸ (Effect.respond (a := u.active) (w := w) (s := u.setErr st) st 0x00).exists_faults

/-- An effect whose event is a response is that response. -/
theorem Effect.eq_respond {a b q : Nat} {w : Word} {s t : State} {st : Status} {v : Byte} (h : Effect a w s t)
    (hhist : t.hist = s.hist ++ [⟨b, q, .respond st v⟩]) : b = a ∧ q = s.seqOf a ∧ t = s.respond a w st v := by
  cases h with
  | respond status value =>
    simp only [State.respond_hist, List.append_cancel_left_eq, List.cons.injEq, Event.mk.injEq,
      EventKind.respond.injEq, and_true] at hhist
    obtain ⟨rfl, rfl, rfl, rfl⟩ := hhist
    exact ⟨rfl, rfl, rfl⟩
  | contention | overflow | counted | enter | underflow | uncounted | exit | driveLow | lineRelease | delay | sample =>
    simp at hhist

/-- A command that takes a step has an agent. -/
theorem exec_phaseOf {i : Instr} {s t : State} (h : exec i s = .next t) : ∃ p, s.phaseOf s.active = some p := by
  obtain ⟨f, -, -, ⟨hp, -⟩ | hp⟩ | ⟨-, hp, -⟩ := exec_cases h <;> exact ⟨_, hp⟩

/-- Where the response of a step of the machine comes from: `respond` for an agent that is there, with the word of that
agent's command and the records so far. -/
theorem step_eq_respond {s t : State} {b q : Nat} {st : Status} {v : Byte} (h : step s = .next t)
    (hhist : t.hist = s.hist ++ [⟨b, q, .respond st v⟩]) :
    ∃ (u : State) (w : Word) (p : Phase), u.phaseOf b = some p ∧ u.faults = s.faults ∧ q = u.seqOf b ∧
      Commanded s b w ∧ t = u.respond b w st v := by
  cases (step_stepCase h).2 with
  | reset => simp at hhist
  | passed _ hu => simp [hu.hist] at hhist
  | @ran u _ i _ hu hword hexec =>
    obtain ⟨rfl, hq, ht⟩ := (exec_effect hexec).eq_respond (hu.hist ▸ hhist)
    obtain ⟨p, hp⟩ := exec_phaseOf hexec
    exact ⟨u, i.word, p, hp, hu.faults, hq, hword, ht⟩
  | @illegal u st' w _ hu hidle hword _ =>
    have heffect : Effect u.active w (u.setErr st') (illegalStep st' w u) := .respond st' 0x00
    obtain ⟨rfl, hq, ht⟩ := heffect.eq_respond (by rw [State.setErr_hist, hu.hist, hhist])
    exact ⟨u.setErr st', w, .idle, hidle, hu.faults, hq, hword, ht⟩

/-- Settles O49: the step is a `respond`, which records the status and leaves the agent `IDLE`. -/
theorem statusErrorsAreRecorded : Obligations.StatusErrorsAreRecorded := by
  intro s t b q st v h hhist hst
  obtain ⟨u, w, p, hp, hfaults, rfl, hword, rfl⟩ := step_eq_respond h hhist
  obtain ⟨k, hk⟩ : ∃ k, st.faultKind = some k := by
    cases st with
    | ok => exact absurd rfl hst
    | illegalOpcode | illegalOperand | guardUnderflow | guardOverflow => exact ⟨_, rfl⟩
  refine ⟨w, k, hk, ?_, State.phaseOf_respond_self w st v hp, hword⟩
  rw [State.respond_faults, hfaults, hk]; rfl

end Sys2Proof.Machine
end

section
/-! PROOFS. The guard and the line along a run (R17, R18, R20, R25, R28, R84). `Op` says, for each step that ends at
another position, what the position before and the one after say of the guard, the line and the result; that every
command moves so (`flightStep_move`) is proved once, and the invariants follow from it. -/

namespace Sys2Proof.Machine

open Sys2Proof.Safety

/-! ### What a position says -/

/-- The result a phase has fixed. -/
def phaseResult : Phase → Option (Status × Byte)
  | .idle => none
  | .faulted => none
  | .running f => flightResult f

/-- What a position says of the guard, the line and the result. -/
structure View where
  hold : Hold
  drive : Drive
  result : Option (Status × Byte)

/-- What a phase says. -/
def view (p : Phase) : View := ⟨phaseHold p, phaseDrive p, phaseResult p⟩

/-- The guard after an increment step that found `count` tokens (R65). -/
inductive Hold.Inc (count : Nat) : Hold → Hold → Prop where
  | first (h : count = 0) : Inc count .free .entering
  | again (h : count ≠ 0) : Inc count .free (.held 1)
  | nested (n : Nat) (h : count ≠ 0) : Inc count (.held n) (.held (n + 1))
  | nestedFirst (n : Nat) (h : count = 0) : Inc count (.held n) .never

/-- The guard after a decrement step that left `count` tokens (R66): a command's last token, or a nested one. -/
inductive Hold.Dec (count : Nat) : Hold → Hold → Prop where
  | last {h : Hold} (hh : h = .free ∨ h = .held 1) (h0 : count = 0) : Dec count h .exiting
  | own {h : Hold} (hh : h = .free ∨ h = .held 1) (h0 : count ≠ 0) : Dec count h .free
  | nested (n : Nat) (h0 : count ≠ 0) : Dec count (.held (n + 2)) (.held (n + 1))
  | nestedLast (n : Nat) (h0 : count = 0) : Dec count (.held (n + 2)) .never

/-- A result once fixed stays, and one fixed without an error is `OK`. -/
def Keeps (r r' : Option (Status × Byte)) : Prop := r' = r ∨ r = none ∧ ∃ v, r' = some (.ok, v)

/-- What the steps that end at another position do, from a position that says `v` to one that says `v'`. -/
inductive Op (a : Nat) (s : State) : View → State → View → Prop where
  | overflow {h} (hopen : s.contended a = false) (hc : s.count = s.cfg.maxCount) :
      Op a s ⟨h, .released, none⟩ ((s.setErr .guardOverflow).log a .incOverflow)
        ⟨h, .released, some (.guardOverflow, 0x00)⟩
  | counted {h h' r r'} (hopen : s.contended a = false) (hc : s.count ≠ s.cfg.maxCount)
      (hhold : Hold.Inc s.count h h') (hr : Keeps r r') : Op a s ⟨h, .released, r⟩ (s.counted a) ⟨h', .released, r'⟩
  | enter {r r'} (hr : Keeps r r') : Op a s ⟨.entering, .released, r⟩ (s.guardEnter a) ⟨.held 1, .released, r'⟩
  | nestedEnter {d r v'} (hr : Keeps r v'.result) : Op a s ⟨.never, d, r⟩ (s.guardEnter a) v'
  | underflow (hopen : s.contended a = false) (hc : s.count = 0) :
      Op a s ⟨.free, .released, none⟩ ((s.setErr .guardUnderflow).log a .decUnderflow)
        ⟨.free, .released, some (.guardUnderflow, 0x00)⟩
  | heldUnderflow {n d r v'} (hc : s.count = 0) (hr : Keeps r v'.result) :
      Op a s ⟨.held (n + 1), d, r⟩ ((s.setErr .guardUnderflow).log a .decUnderflow) v'
  | uncounted {h h' r r'} (hopen : s.contended a = false) (hc : s.count ≠ 0)
      (hhold : Hold.Dec (s.count - 1) h h') (hr : Keeps r r') :
      Op a s ⟨h, .released, r⟩ (s.uncounted a) ⟨h', .released, r'⟩
  | exit {r r'} (hr : Keeps r r') : Op a s ⟨.exiting, .released, r⟩ (s.guardExit a) ⟨.free, .released, r'⟩
  | nestedExit {d r v'} (hr : Keeps r v'.result) : Op a s ⟨.never, d, r⟩ (s.guardExit a) v'
  | driveLow {n d r r'} (hr : Keeps r r') : Op a s ⟨.held n, d, r⟩ (s.lineDriveLow a) ⟨.held n, .driven, r'⟩
  | lineRelease {n d r r'} (hr : Keeps r r') : Op a s ⟨.held n, d, r⟩ (s.lineRelease a) ⟨.held n, .released, r'⟩
  | delay {n d r r'} (name : DelayName) (hr : Keeps r r') : Op a s ⟨.held n, d, r⟩ (s.delay a name) ⟨.held n, d, r'⟩
  | sample {n r r'} (hr : Keeps r r') :
      Op a s ⟨.held n, .released, r⟩ (s.sample a) ⟨.held n, .released, r'⟩

/-- What a step of agent `a`'s command with word `w` does from a position that says `v`: it goes on to a position `q`,
or the command ends, with the result that is fixed or, for a command of one step, without a value if it is an error. -/
inductive Move (a : Nat) (w : Word) (s : State) (v : View) : State → Prop where
  | onward {u : State} {v' : View} {q : Phase} (hq : view q = v') (hop : Op a s v u v') : Move a w s v (u.setPhase a q)
  | contention (h : s.contended a = true) : Move a w s v (s.raiseContention a w)
  | respond {status : Status} {value : Byte} (hhold : v.hold = .free ∨ v.hold = .held 1) (hdrive : v.drive = .released)
      (hresult : v.result = some (status, value) ∨ v.result = none ∧ (status ≠ .ok → value = 0x00)) :
      Move a w s v (s.respond a w status value)

/-! ### Every command moves so -/

section Steps

variable {a : Nat} {w : Word} {s : State}

theorem Keeps.same {r : Option (Status × Byte)} : Keeps r r := .inl rfl

theorem Keeps.ok {value : Byte} : Keeps none (some (.ok, value)) := .inr ⟨rfl, value, rfl⟩

/-- An increment step at a position with guard `h`. -/
theorem acquireStep_move {h h₁ h₂ : Hold} {r : Option (Status × Byte)} {ovf enter onward : Phase}
    (hovf : view ovf = ⟨h, .released, some (.guardOverflow, 0x00)⟩) (henter : view enter = ⟨h₁, .released, none⟩)
    (honward : view onward = ⟨h₂, .released, r⟩) (hr : Keeps none r) (hfirst : s.count = 0 → Hold.Inc s.count h h₁)
    (hagain : s.count ≠ 0 → Hold.Inc s.count h h₂) :
    Move a w s ⟨h, .released, none⟩ (acquireStep a w ovf enter onward s) := by
  obtain ⟨hc, e⟩ | ⟨hopen, hc, e⟩ | ⟨hopen, hc, e⟩ := acquireStep_cases a w ovf enter onward s <;> rw [e]
  · exact .contention hc
  · exact .onward hovf (.overflow hopen hc)
  · split
    · exact .onward henter (.counted hopen hc (hfirst ‹_›) .same)
    · exact .onward honward (.counted hopen hc (hagain ‹_›) hr)

/-- A decrement step at a position with guard `h` and result `r`. -/
theorem releaseStep_move {h h₁ h₂ : Hold} {r r₁ r₂ : Option (Status × Byte)} {udf exit onward : Phase}
    (hudf : s.contended a = false → s.count = 0 →
      Op a s ⟨h, .released, r⟩ ((s.setErr .guardUnderflow).log a .decUnderflow) (view udf))
    (hexit : view exit = ⟨h₁, .released, r₁⟩) (honward : view onward = ⟨h₂, .released, r₂⟩) (hr₁ : Keeps r r₁)
    (hr₂ : Keeps r r₂) (hlast : s.count - 1 = 0 → Hold.Dec (s.count - 1) h h₁)
    (hmore : s.count - 1 ≠ 0 → Hold.Dec (s.count - 1) h h₂) :
    Move a w s ⟨h, .released, r⟩ (releaseStep a w udf exit onward s) := by
  obtain ⟨hc, e⟩ | ⟨hopen, hc, e⟩ | ⟨hopen, hc, e⟩ := releaseStep_cases a w udf exit onward s <;> rw [e]
  · exact .contention hc
  · exact .onward rfl (hudf hopen hc)
  · split
    · exact .onward hexit (.uncounted hopen hc (hlast ‹_›) hr₁)
    · exact .onward honward (.uncounted hopen hc (hmore ‹_›) hr₂)

/-- A step of a bracket, given one of its body (R75). -/
theorem bracketStep_move {β : Type} {wrap : BracketPc β → Phase} {hold : β → Hold} {drive : β → Drive} {first : β}
    {bodyStep : β → State → State}
    (hwrap : ∀ pc, view (wrap pc) = ⟨bracketHold hold pc, bracketDrive drive pc, bracketResult pc⟩)
    (hhold : hold first = .held 1) (hdrive : drive first = .released)
    (hbody : ∀ p, Move a w s (view (wrap (.body p))) (bodyStep p s)) (pc : BracketPc β) :
    Move a w s (view (wrap pc)) (bracketStep a w wrap first bodyStep pc s) := by
  have hfirst : view (wrap (.body first)) = ⟨.held 1, .released, none⟩ := by
    rw [hwrap, bracketHold, bracketDrive, hhold, hdrive]; rfl
  cases pc with
  | body p => exact hbody p
  | inc =>
    rw [hwrap]
    exact acquireStep_move (hwrap _) (hwrap _) hfirst .same .first .again
  | enter =>
    rw [hwrap]
    exact .onward hfirst (.enter .same)
  | dec status value =>
    rw [hwrap]
    exact releaseStep_move (fun _ hc => hwrap (.respond status value) ▸ .heldUnderflow hc .same) (hwrap _) (hwrap _)
      .same .same (.last (.inr rfl)) (.own (.inr rfl))
  | exit status value =>
    rw [hwrap]
    exact .onward (hwrap (.respond status value)) (.exit .same)
  | respond status value =>
    rw [hwrap]
    exact .respond (.inl rfl) rfl (.inl rfl)

/-- A step of one bit of a byte command, given one of its slot (R80, R83). -/
theorem nestedStep_move {σ : Type} {wrap : NestedPc σ → Phase} {drive : σ → Drive} {first : σ}
    {slotStep : σ → State → State} {ovf next : Phase} {r : Option (Status × Byte)}
    (hwrap : ∀ pc, view (wrap pc) = ⟨nestedHold pc, nestedDrive drive pc, none⟩) (hdrive : drive first = .released)
    (hovf : view ovf = ⟨.held 1, .released, some (.guardOverflow, 0x00)⟩)
    (hnext : view next = ⟨.held 1, .released, r⟩) (hr : Keeps none r)
    (hslot : ∀ p, Move a w s (view (wrap (.slot p))) (slotStep p s)) (pc : NestedPc σ) :
    Move a w s (view (wrap pc)) (nestedStep a w wrap first slotStep ovf next pc s) := by
  have hfirst : view (wrap (.slot first)) = ⟨.held 2, .released, none⟩ := by
    rw [hwrap, nestedDrive, hdrive]; rfl
  cases pc with
  | slot p => exact hslot p
  | inc =>
    rw [hwrap]
    exact acquireStep_move hovf (hwrap _) hfirst .same (.nestedFirst 1) (.nested 1)
  | enter =>
    rw [hwrap]
    exact .onward hfirst (.nestedEnter .same)
  | dec =>
    rw [hwrap]
    exact releaseStep_move (fun _ hc => .heldUnderflow hc (hwrap .ibd ▸ .same)) (hwrap _) (hwrap _) .same .same
      (.nestedLast 0) (.nested 0)
  | exit =>
    rw [hwrap]
    exact .onward (hwrap .ibd) (.nestedExit .same)
  | ibd =>
    rw [hwrap]
    exact .onward hnext (.delay .ibd hr)

/-- A step of `WriteSlot`, with `n` tokens held (R76). -/
theorem writeSlotStep_move {n : Nat} {bit : Bit} {wrap : WriteSlotPc → Phase} {done : Phase}
    {r : Option (Status × Byte)} (hwrap : ∀ pc, view (wrap pc) = ⟨.held n, writeSlotDrive pc, none⟩)
    (hdone : view done = ⟨.held n, .released, r⟩) (hr : Keeps none r) (pc : WriteSlotPc) :
    Move a w s (view (wrap pc)) (writeSlotStep a bit wrap done pc s) := by
  rw [hwrap]
  cases pc with
  | low => exact .onward (hwrap .hold) (.driveLow .same)
  | hold => exact .onward (hwrap .up) (.delay _ .same)
  | up =>
    simp only [writeSlotStep]
    split
    · exact .onward hdone (.lineRelease hr)
    · exact .onward (hwrap .rest) (.lineRelease .same)
  | rest => exact .onward hdone (.delay _ hr)

/-- A step of `ReadSlot`, with `n` tokens held (R77). -/
theorem readSlotStep_move {n : Nat} {wrap : Bit → ReadSlotPc → Phase} {done : Bit → Phase}
    {r : Bit → Option (Status × Byte)} (hwrap : ∀ b pc, view (wrap b pc) = ⟨.held n, readSlotDrive pc, none⟩)
    (hdone : ∀ b, view (done b) = ⟨.held n, .released, r b⟩) (hr : ∀ b, Keeps none (r b)) (b : Bit) (pc : ReadSlotPc) :
    Move a w s (view (wrap b pc)) (readSlotStep a b wrap done pc s) := by
  rw [hwrap]
  cases pc with
  | low => exact .onward (hwrap b .hold) (.driveLow .same)
  | hold => exact .onward (hwrap b .up) (.delay _ .same)
  | up => exact .onward (hwrap b .wait) (.lineRelease .same)
  | wait => exact .onward (hwrap b .sample) (.delay _ .same)
  | sample => exact .onward (hwrap s.level .rest) (.sample .same)
  | rest => exact .onward (hdone b) (.delay _ (hr b))

/-- The head of the presence window's loop says that a token is held, and has no error (R78). -/
theorem view_resetPoll (i : Nat) (s : State) :
    ∃ r, view (resetPoll i s) = ⟨.held 1, .released, r⟩ ∧ Keeps none r := by
  unfold resetPoll
  split
  · exact ⟨none, rfl, .same⟩
  · exact ⟨_, rfl, .ok⟩

/-- A step of RESET's body (R78). -/
theorem resetBodyStep_move (pc : ResetPc) : Move a w s (view (resetPhase (.body pc))) (resetBodyStep a pc s) := by
  cases pc with
  | low => exact .onward (q := resetPhase (.body .hold)) rfl (.driveLow .same)
  | hold => exact .onward (q := resetPhase (.body .up)) rfl (.delay _ .same)
  | up => exact .onward (q := resetPhase (.body .settle)) rfl (.lineRelease .same)
  | settle =>
    obtain ⟨r, hview, hr⟩ := view_resetPoll 0 s
    exact .onward hview (.delay _ hr)
  | poll i =>
    simp only [resetBodyStep]
    split
    · exact .onward (q := resetPhase (.body .waitSample)) rfl (.sample .same)
    · exact .onward (q := resetPhase (.body (.pollDelay i))) rfl (.sample .same)
  | pollDelay i =>
    obtain ⟨r, hview, hr⟩ := view_resetPoll (i + 1) s
    exact .onward hview (.delay _ hr)
  | waitSample =>
    simp only [resetBodyStep]
    split
    · exact .onward (q := resetPhase (.body .waitDelay)) rfl (.sample .same)
    · exact .onward (q := resetPhase (.dec .ok 0x01)) rfl (.sample .ok)
  | waitDelay => exact .onward (q := resetPhase (.body .waitSample)) rfl (.delay _ .same)

/-- The phase after a bit of WRITE_BYTE holds the command's own token, and has no error (R80). -/
theorem view_writeByteNext (byte : Byte) (i : Fin 8) :
    ∃ r, view (writeByteNext byte i) = ⟨.held 1, .released, r⟩ ∧ Keeps none r := by
  unfold writeByteNext
  split
  · exact ⟨none, rfl, .same⟩
  · exact ⟨_, rfl, .ok⟩

/-- The phase after a bit of READ_BYTE holds the command's own token, and has no error (R83). -/
theorem view_readByteNext (v : Byte) (i : Fin 8) :
    ∃ r, view (readByteNext v i) = ⟨.held 1, .released, r⟩ ∧ Keeps none r := by
  unfold readByteNext
  split
  · exact ⟨none, rfl, .same⟩
  · exact ⟨_, rfl, .ok⟩

/-- A step of a command in flight moves as its position says. -/
theorem flightStep_move (f : Flight) : Move a f.instr.word s (view (.running f)) (flightStep a f s) := by
  cases f with
  | acquire pc =>
    cases pc with
    | inc => exact acquireStep_move rfl rfl rfl .ok .first .again
    | enter => exact .onward (q := .running (.acquire (.respond .ok))) rfl (.enter .ok)
    | respond status =>
      refine .respond ?_ rfl (.inl rfl)
      cases status with
      | ok => exact .inr rfl
      | illegalOpcode | illegalOperand | guardUnderflow | guardOverflow => exact .inl rfl
  | release pc =>
    cases pc with
    | dec => exact releaseStep_move .underflow rfl rfl .same .ok (.last (.inl rfl)) (.own (.inl rfl))
    | exit => exact .onward (q := .running (.release (.respond .ok))) rfl (.exit .ok)
    | respond status => exact .respond (.inl rfl) rfl (.inl rfl)
  | reset pc => exact bracketStep_move (wrap := resetPhase) (fun _ => rfl) rfl rfl resetBodyStep_move pc
  | writeBit bit pc =>
    exact bracketStep_move (wrap := writeBitPhase bit) (fun _ => rfl) rfl rfl
      (writeSlotStep_move (fun _ => rfl) rfl .ok) pc
  | readBit pc =>
    exact bracketStep_move (wrap := readBitPhase) (fun _ => rfl) rfl rfl
      (fun p => readSlotStep_move (wrap := fun b q => readBitPhase (.body ⟨b, q⟩)) (fun _ _ => rfl)
        (fun _ => rfl) (fun _ => .ok) p.b p.pc) pc
  | writeByte byte pc =>
    refine bracketStep_move (wrap := writeBytePhase byte) (fun _ => rfl) rfl rfl (fun p => ?_) pc
    obtain ⟨r, hnext, hr⟩ := view_writeByteNext byte p.i
    exact nestedStep_move (wrap := fun q => writeBytePhase byte (.body ⟨p.i, q⟩)) (fun _ => rfl) rfl rfl hnext hr
      (writeSlotStep_move (wrap := fun q => writeBytePhase byte (.body ⟨p.i, .slot q⟩))
        (done := writeBytePhase byte (.body ⟨p.i, .dec⟩)) (fun _ => rfl) rfl .same) p.pc
  | readByte pc =>
    refine bracketStep_move (wrap := readBytePhase) (fun _ => rfl) rfl rfl (fun p => ?_) pc
    obtain ⟨r, hnext, hr⟩ := view_readByteNext (putBit p.v p.b p.i) p.i
    exact nestedStep_move (wrap := fun q => readBytePhase (.body ⟨p.i, p.v, p.b, q⟩)) (fun _ => rfl) rfl rfl hnext hr
      (readSlotStep_move (wrap := fun b q => readBytePhase (.body ⟨p.i, p.v, b, .slot q⟩)) (fun _ _ => rfl)
        (fun _ => rfl) (fun _ => .same) p.b) p.pc

/-- The position a command starts from says what an idle agent's phase says. -/
theorem view_startOf {i : Instr} {f : Flight} (h : startOf i = some f) : view (.running f) = view .idle := by
  cases i <;> cases h <;> rfl

/-- A step of any command moves as its agent's phase says. -/
theorem exec_move {i : Instr} {t : State} (h : exec i s = .next t) :
    ∃ p, s.phaseOf s.active = some p ∧ Move s.active i.word s (view p) t := by
  obtain ⟨f, rfl, rfl, ⟨hidle, hstart⟩ | hf⟩ | ⟨-, hidle, v, rfl⟩ := exec_cases h
  · exact ⟨.idle, hidle, view_startOf hstart ▸ flightStep_move f⟩
  · exact ⟨.running f, hf, flightStep_move f⟩
  · exact ⟨.idle, hidle, .respond (.inl rfl) rfl (.inr ⟨rfl, fun h => absurd rfl h⟩)⟩

/-- An illegal command's step moves as an idle agent may (R59, R60). -/
theorem illegalStep_move (st : Status) : Move s.active w (s.setErr st) (view .idle) (illegalStep st w s) :=
  .respond (.inl rfl) rfl (.inr ⟨rfl, fun _ => rfl⟩)

end Steps

end Sys2Proof.Machine
end

section
/-! PROOFS. The invariant of the guard and the line (R17, R18, R21, R25, R28), and what follows from it: mutual
exclusion (R47), the released line (R84, R108) and the samples (R35). -/

namespace Sys2Proof.Machine

open Sys2Proof.Safety

/-! ### What the invariant says of one agent -/

/-- The registers of the invariant, and what it says of agent `a` at a position that says `v`. -/
structure Fits (s : State) (a : Nat) (v : View) : Prop where
  admitted : s.cfg.admitted = true
  count : s.count ≤ s.cfg.maxCount
  err : s.err.extractLsb' 4 4 = 0
  unowned : s.owner = none → s.count = 0 ∧ s.region = false ∧ s.lineDrive = .released
  owned : s.owner = some a → ownedGuard v.hold s.count s.region ∧ s.lineDrive = v.drive
  holder : v.hold ≠ .free → s.owner = some a

/-- The invariant fits every agent. -/
theorem Fits.of_inv {s : State} {a : Nat} {p : Phase} (hs : Inv s) (hp : s.phaseOf a = some p) : Fits s a (view p) where
  admitted := hs.admitted
  count := hs.count
  err := hs.err
  unowned := hs.unowned
  owned := fun ho => by
    obtain ⟨q, hq, hguard, hline⟩ := hs.owned a ho
    cases hp.symm.trans hq
    exact ⟨hguard, hline⟩
  holder := hs.holder a p hp

/-- The invariant after a change of agent `a` and the registers that leaves another owner's registers alone. -/
theorem Fits.inv {s t : State} {a : Nat} {q : Phase} (hfits : Fits t a (view q)) (hs : Inv s) (hcfg : t.cfg = s.cfg)
    (hlength : t.agents.length = s.agents.length) (hself : t.phaseOf a = some q)
    (hother : ∀ b, b ≠ a → t.phaseOf b = s.phaseOf b)
    (howner : ∀ b, b ≠ a → (t.owner = some b ↔ s.owner = some b))
    (hregs : ∀ b, b ≠ a → s.owner = some b →
      t.count = s.count ∧ t.region = s.region ∧ t.lineDrive = s.lineDrive) : Inv t where
  admitted := hfits.admitted
  agents := by rw [hlength, hcfg, hs.agents]
  count := hfits.count
  err := hfits.err
  unowned := hfits.unowned
  owned := fun b hb => by
    by_cases hba : b = a
    · subst hba; exact ⟨q, hself, hfits.owned hb⟩
    · have hb' := (howner b hba).mp hb
      obtain ⟨hcount, hregion, hline⟩ := hregs b hba hb'
      rw [hother b hba, hcount, hregion, hline]
      exact hs.owned b hb'
  holder := fun b p hp hhold => by
    by_cases hba : b = a
    · subst hba; cases hself.symm.trans hp; exact hfits.holder hhold
    · rw [hother b hba] at hp
      exact (howner b hba).mpr (hs.holder b p hp hhold)

/-! ### The guard and the line at a step -/

/-- A status error's bit is not one of the reserved bits 7:4 (R21). -/
theorem extractLsb'_or_errBit {e : Byte} (st : Status) (h : e.extractLsb' 4 4 = 0) :
    (e ||| st.errBit).extractLsb' 4 4 = 0 := by
  rw [BitVec.extractLsb'_or, h]
  cases st <;> rfl

/-- An increment step of the owner counts as its position says (R65). -/
theorem Hold.Inc.ownedGuard {h h' : Hold} {count : Nat} {region : Bool} (hinc : Hold.Inc count h h')
    (hguard : ownedGuard h count region) : ownedGuard h' (count + 1) region := by
  cases hinc with
  | first h0 => exact absurd hguard.1 (by omega)
  | again h0 => exact ⟨by omega, by omega, hguard.2⟩
  | nested n h0 =>
    obtain ⟨-, hn, hregion⟩ := hguard
    exact ⟨by omega, by omega, hregion⟩
  | nestedFirst n h0 => exact absurd hguard.1 (by omega)

/-- A decrement step of the owner counts as its position says (R66). -/
theorem Hold.Dec.ownedGuard {h h' : Hold} {count : Nat} {region : Bool} (hdec : Hold.Dec (count - 1) h h')
    (hguard : ownedGuard h count region) : ownedGuard h' (count - 1) region := by
  have hregion : region = true := by
    cases hdec with
    | last hh | own hh => obtain rfl | rfl := hh <;> simp_all [Safety.ownedGuard]
    | nested | nestedLast => simp_all [Safety.ownedGuard]
  cases hdec with
  | last _ h0 => exact ⟨h0, hregion⟩
  | own _ h0 => exact ⟨Nat.pos_of_ne_zero h0, hregion⟩
  | nested n h0 =>
    have hn : n + 2 ≤ count := hguard.2.1
    exact ⟨by omega, by omega, hregion⟩
  | nestedLast n h0 =>
    have hn : n + 2 ≤ count := hguard.2.1
    omega

section Op

variable {a : Nat} {s u : State} {v v' : View}

/-- The steps that change a register are the owner's, or find the guard free. -/
theorem Op.owner (hop : Op a s v u v') (hfits : Fits s a v) : s.owner = none ∨ s.owner = some a := by
  cases hop with
  | overflow hopen | counted hopen | underflow hopen | uncounted hopen => exact State.contended_eq_false.mp hopen
  | enter | nestedEnter | heldUnderflow | exit | nestedExit | driveLow | lineRelease | delay | sample =>
    exact .inr (hfits.holder (by simp))

/-- The steps that go on leave the agents, whose phase they change afterwards. -/
theorem Op.agents (hop : Op a s v u v') : u.agents = s.agents := by
  cases hop <;> simp

theorem Op.cfg (hop : Op a s v u v') : u.cfg = s.cfg := by
  cases hop <;> simp

/-- A step that goes on leaves the guard free or the agent's own. -/
theorem Op.owner_after (hop : Op a s v u v') (howner : s.owner = none ∨ s.owner = some a) :
    u.owner = none ∨ u.owner = some a := by
  cases hop with
  | counted => by_cases h0 : s.count = 0 <;> simp [h0, howner]
  | exit | nestedExit => exact .inl rfl
  | overflow | enter | nestedEnter | underflow | heldUnderflow | uncounted | driveLow | lineRelease | delay | sample =>
    simpa using howner

/-- The registers fit the owner if the guard and the line are as its position says. -/
theorem Fits.of_owner (hadm : s.cfg.admitted = true) (hcount : s.count ≤ s.cfg.maxCount)
    (herr : s.err.extractLsb' 4 4 = 0) (ho : s.owner = some a) (hguard : ownedGuard v.hold s.count s.region)
    (hline : s.lineDrive = v.drive) : Fits s a v :=
  ⟨hadm, hcount, herr, fun hnone => absurd (ho.symm.trans hnone) nofun, fun _ => ⟨hguard, hline⟩, fun _ => ho⟩

/-- An increment step makes its agent the owner, with the guard as the position after it says. -/
theorem Hold.Inc.guard_counted {h h' : Hold} (hinc : Hold.Inc s.count h h') (hfits : Fits s a ⟨h, .released, v.result⟩)
    (howner : s.owner = none ∨ s.owner = some a) :
    (s.counted a).owner = some a ∧ Safety.ownedGuard h' (s.count + 1) s.region ∧ s.lineDrive = .released := by
  obtain hnone | hsome := howner
  · obtain ⟨h0, hregion, hline⟩ := hfits.unowned hnone
    have hfree : h = .free := not_not.mp fun hh => absurd ((hfits.holder hh).symm.trans hnone) nofun
    subst hfree
    cases hinc with
    | first => exact ⟨by simp [h0], ⟨by rw [h0], hregion⟩, hline⟩
    | again hne => exact absurd h0 hne
  · obtain ⟨hguard, hline⟩ := hfits.owned hsome
    exact ⟨by simp [hsome], hinc.ownedGuard hguard, hline⟩

/-- The position a step goes on to fits the registers it leaves. -/
theorem Op.fits (hop : Op a s v u v') (hfits : Fits s a v) : Fits u a v' := by
  have howner := hop.owner hfits
  obtain ⟨hadm, hcount, herr, hunowned, howned, hholder⟩ := id hfits
  cases hop with
  | overflow | underflow => exact ⟨hadm, hcount, extractLsb'_or_errBit _ herr, hunowned, howned, hholder⟩
  | heldUnderflow hc =>
    have hpos := (howned (hholder (by simp))).1.1
    omega
  | nestedEnter | nestedExit => exact (howned (hholder (by simp))).1.elim
  | @counted h h' r r' _ hc hhold =>
    obtain ⟨ho, hguard, hline⟩ := hhold.guard_counted (v := ⟨h, .released, r⟩) hfits howner
    exact .of_owner hadm (Nat.lt_of_le_of_ne hcount hc) herr ho hguard hline
  | enter =>
    have ho := hholder (by simp)
    obtain ⟨⟨h1, -⟩, hline⟩ := howned ho
    exact .of_owner hadm hcount herr ho ⟨h1.ge, h1.ge, rfl⟩ hline
  | uncounted _ hc hhold =>
    have ho := howner.resolve_left fun hnone => hc (hunowned hnone).1
    obtain ⟨hguard, hline⟩ := howned ho
    exact .of_owner hadm ((Nat.sub_le ..).trans hcount) herr ho (hhold.ownedGuard hguard) hline
  | exit =>
    obtain ⟨⟨h0, -⟩, hline⟩ := howned (hholder (by simp))
    exact ⟨hadm, hcount, herr, fun _ => ⟨h0, rfl, hline⟩, nofun, fun hhold => absurd rfl hhold⟩
  | driveLow | lineRelease =>
    have ho := hholder (by simp)
    exact .of_owner hadm hcount herr ho (howned ho).1 rfl
  | delay => exact ⟨hadm, hcount, herr, hunowned, howned, hholder⟩
  | sample =>
    have ho := hholder (by simp)
    obtain ⟨hguard, hline⟩ := howned ho
    exact .of_owner (by simpa) (by simpa) (by simpa) (by simpa) (by simpa) (by simpa)

/-- A step that goes on keeps the invariant. -/
theorem Op.inv {p q : Phase} (hop : Op a s (view p) u (view q)) (hs : Inv s) (hp : s.phaseOf a = some p) :
    Inv (u.setPhase a q) := by
  have hfits := Fits.of_inv hs hp
  have howner := hop.owner hfits
  have hafter := hop.owner_after howner
  have hnotOther : ∀ b, b ≠ a → s.owner ≠ some b ∧ u.owner ≠ some b := by
    intro b hb
    obtain h | h := howner <;> obtain h' | h' := hafter <;> simp [h, h', Ne.symm hb]
  have hp' : u.phaseOf a = some p := (State.phaseOf_congr hop.agents a).trans hp
  obtain ⟨hadm, hcount, herr, hunowned, howned, hholder⟩ := hop.fits hfits
  refine Fits.inv (a := a) (q := q) ⟨hadm, hcount, herr, hunowned, howned, hholder⟩ hs hop.cfg (by simp [hop.agents])
    (State.phaseOf_setPhase_self q hp') (fun b hb => ?_) (fun b hb => ?_) (fun b hb ho => ?_)
  · rw [State.phaseOf_setPhase_ne u q hb.symm, State.phaseOf_congr hop.agents]
  · exact iff_of_false (hnotOther b hb).2 (hnotOther b hb).1
  · exact absurd ho (hnotOther b hb).1

end Op

/-! ### A command that ends -/

/-- A response at a position that holds at most the command's own token, with the line released, keeps the invariant:
the agent may hold tokens as an idle one may. -/
theorem inv_respond {s : State} {a : Nat} {p : Phase} (hs : Inv s) (hp : s.phaseOf a = some p)
    (hhold : phaseHold p = .free ∨ phaseHold p = .held 1) (hdrive : phaseDrive p = .released) (w : Word) (st : Status)
    (v : Byte) : Inv (s.respond a w st v) := by
  have hfits := Fits.of_inv hs hp
  refine Fits.inv (a := a) (q := .idle) ⟨by simpa using hfits.admitted, by simpa using hfits.count,
    by simpa using hfits.err, by simpa using hfits.unowned, fun ho => ?_, fun h => absurd rfl h⟩ hs (by simp) (by simp)
    (State.phaseOf_respond_self w st v hp) (fun b hb => State.phaseOf_respond_ne s w st v hb.symm) (by simp) (by simp)
  obtain ⟨hguard, hline⟩ := hfits.owned (by simpa using ho)
  have hfree : ownedGuard .free s.count s.region := by
    obtain h | h := hhold <;> simp only [view, h] at hguard
    · exact hguard
    · exact ⟨hguard.1, hguard.2.2⟩
  rw [State.respond_count, State.respond_region, State.respond_lineDrive]
  exact ⟨hfree, hline.trans hdrive⟩

/-- Contention stops an agent that is not the owner, and keeps the invariant. -/
theorem inv_raiseContention {s : State} {a : Nat} {p : Phase} (hs : Inv s) (hp : s.phaseOf a = some p)
    (hcont : s.contended a = true) (w : Word) : Inv (s.raiseContention a w) := by
  obtain ⟨o, ho, hoa⟩ := State.contended_eq_true.mp hcont
  have hfits := Fits.of_inv hs hp
  exact Fits.inv (a := a) (q := .faulted) ⟨hfits.admitted, hfits.count, hfits.err, hfits.unowned,
    fun hself => absurd (Option.some.inj (ho.symm.trans hself)) hoa, fun h => absurd rfl h⟩ hs rfl (by simp)
    (State.phaseOf_raiseContention_self w hp) (fun b hb => State.phaseOf_raiseContention_ne s w hb.symm)
    (fun _ _ => .rfl) (fun _ _ _ => ⟨rfl, rfl, rfl⟩)

/-- A step of a command keeps the invariant. -/
theorem Move.inv {s t : State} {a : Nat} {w : Word} {p : Phase} (hmove : Move a w s (view p) t) (hs : Inv s)
    (hp : s.phaseOf a = some p) : Inv t := by
  cases hmove with
  | onward hq hop => exact (hq ▸ hop).inv hs hp
  | contention h => exact inv_raiseContention hs hp h w
  | respond hhold hdrive => exact inv_respond hs hp hhold hdrive w _ _

/-! ### The machine -/

/-- The invariant is about the block. -/
theorem SameBlock.inv {s u : State} (hu : SameBlock s u) (hs : Inv s) : Inv u where
  admitted := hu.cfg ▸ hs.admitted
  agents := by rw [hu.agents, hu.cfg, hs.agents]
  count := by rw [hu.count, hu.cfg]; exact hs.count
  err := hu.err ▸ hs.err
  unowned := by rw [hu.owner, hu.count, hu.region, hu.lineDrive]; exact hs.unowned
  owned := by
    intro o
    rw [hu.owner, hu.phaseOf, hu.count, hu.region, hu.lineDrive]
    exact hs.owned o
  holder := by
    intro a p
    rw [hu.phaseOf, hu.owner]
    exact hs.holder a p

/-- A state without an owner, with the registers of reset and every agent idle, meets the invariant. -/
theorem inv_of_reset {s : State} (hadm : s.cfg.admitted = true) (hagents : s.agents.length = s.cfg.nAgents)
    (hcount : s.count = 0) (hregion : s.region = false) (hline : s.lineDrive = .released) (herr : s.err = 0)
    (howner : s.owner = none) (hidle : ∀ a p, s.phaseOf a = some p → p = .idle) : Inv s where
  admitted := hadm
  agents := hagents
  count := by rw [hcount]; exact Nat.zero_le _
  err := by rw [herr]; rfl
  unowned := fun _ => ⟨hcount, hregion, hline⟩
  owned := fun o ho => absurd (howner.symm.trans ho) nofun
  holder := fun a p hp hhold => by obtain rfl := hidle a p hp; exact absurd rfl hhold

/-- The block reset's state meets the invariant. -/
theorem inv_blockReset {s : State} (hs : Inv s) : Inv s.blockReset := by
  refine inv_of_reset hs.admitted (by simpa using hs.agents) rfl rfl rfl rfl rfl fun a p hp => ?_
  obtain ⟨ag, hag, rfl⟩ := State.phaseOf_eq_some hp
  obtain ⟨g, -, rfl⟩ := List.mem_map.mp (List.mem_of_getElem? hag)
  rfl

/-- A status error's bit keeps the invariant (R21). -/
theorem inv_setErr {s : State} (hs : Inv s) (st : Status) : Inv (s.setErr st) :=
  ⟨hs.admitted, hs.agents, hs.count, extractLsb'_or_errBit st hs.err, hs.unowned, hs.owned, hs.holder⟩

/-- Settles O52: the block reset gives the reset registers, an illegal command only responds, and each command moves the
guard and the line as its positions say. -/
theorem stepKeepsTheInvariant : Obligations.StepKeepsTheInvariant := by
  intro s t hs h
  cases (step_stepCase h).2 with
  | reset => exact inv_blockReset ((sameBlock_useTurn s).inv hs)
  | passed _ hu => exact hu.inv hs
  | ran _ hu _ hexec =>
    obtain ⟨p, hp, hmove⟩ := exec_move hexec
    exact hmove.inv (hu.inv hs) hp
  | illegal _ hu hidle => exact (illegalStep_move _).inv (inv_setErr (hu.inv hs) _) hidle

/-- Settles O51: the registers are those of reset, and every agent is fresh. -/
theorem blockResetMeetsTheInvariant : Obligations.BlockResetMeetsTheInvariant := by
  have hinv : ∀ c : Config, c.admitted = true → Inv (State.resetWith c) := fun c hadm => by
    refine inv_of_reset hadm (by simp [State.resetWith]) rfl rfl rfl rfl rfl fun a p hp => ?_
    obtain ⟨ag, hag, rfl⟩ := State.phaseOf_eq_some hp
    rw [List.eq_of_mem_replicate (List.mem_of_getElem? hag)]
    rfl
  exact ⟨hinv, hinv _ (by decide +kernel)⟩

/-! ### What the invariant gives -/

/-- Settles O53: both agents are the owner. -/
theorem onlyOneAgentHoldsTheGuard : Obligations.OnlyOneAgentHoldsTheGuard :=
  fun _ a b p q hs hp hq hp' hq' => Option.some.inj ((hs.holder a p hp hp').symm.trans (hs.holder b q hq hq'))

/-- Settles O54: the line is as the owner's position says, and released without an owner; only a command in flight
drives it. -/
theorem lineIsReleasedBetweenCommands : Obligations.LineIsReleasedBetweenCommands := by
  intro s hs
  have hdriven : s.lineDrive = .driven →
      ∃ a f, s.owner = some a ∧ s.phaseOf a = some (.running f) ∧ flightDrive f = .driven := by
    intro hline
    cases ho : s.owner with
    | none => exact absurd (hline.symm.trans (hs.unowned ho).2.2) nofun
    | some a =>
      obtain ⟨p, hp, -, hdrive⟩ := hs.owned a ho
      cases p with
      | idle | faulted => exact absurd (hline.symm.trans hdrive) nofun
      | running f => exact ⟨a, f, rfl, hp, hdrive.symm.trans hline⟩
  refine ⟨hdriven, fun hquiet => ?_⟩
  cases hline : s.lineDrive with
  | released => rfl
  | driven =>
    obtain ⟨a, f, -, hp, -⟩ := hdriven hline
    obtain ⟨ag, hag, hphase⟩ := State.phaseOf_eq_some hp
    obtain h | h := hquiet ag (List.mem_of_getElem? hag) <;> cases hphase.symm.trans h

/-- A step whose event is a sample is the sample step of its agent, at a position that holds the guard with the line
released. -/
theorem Move.sample_of_event {a : Nat} {w : Word} {s t : State} {v : View} {l : Bit} {b q : Nat}
    (hmove : Move a w s v t) (hhist : t.hist = s.hist ++ [⟨b, q, .sample l⟩]) :
    l = s.level ∧ v.drive = .released ∧ v.hold ≠ .free ∧ t.draws = (s.sample a).draws ∧
      t.drawCount = (s.sample a).drawCount := by
  cases hmove with
  | contention | respond => simp at hhist
  | onward hq hop =>
    cases hop with
    | sample =>
      simp only [State.setPhase_hist, State.sample_hist, List.append_cancel_left_eq, List.cons.injEq, Event.mk.injEq,
        EventKind.sample.injEq, and_true] at hhist
      exact ⟨hhist.2.2.symm, rfl, by simp, rfl, rfl⟩
    | overflow | counted | enter | nestedEnter | underflow | heldUnderflow | uncounted | exit | nestedExit | driveLow
    | lineRelease | delay => simp at hhist

/-- Settles O55: the agent samples at a position that holds the guard, so it is the owner and the line is as its
position says, released. -/
theorem everySampleIsADraw : Obligations.EverySampleIsADraw := by
  intro i s t l hs h hhist
  obtain ⟨p, hp, hmove⟩ := exec_move h
  obtain ⟨rfl, hdrive, hhold, hdraws, hdrawCount⟩ := hmove.sample_of_event hhist
  obtain ⟨-, hline⟩ := (Fits.of_inv hs hp).owned ((Fits.of_inv hs hp).holder hhold)
  have hreleased := hline.trans hdrive
  rw [State.sample_eq, if_pos hreleased] at hdraws hdrawCount
  exact ⟨hreleased, State.level_released hreleased, hdraws, hdrawCount⟩

end Sys2Proof.Machine
end

section
/-! PROOFS. The single-step commands (R74, R91 to R95), and the boundary (R13, R14, R59, R60, R63, R101, R105, R119):
what the turn of an agent runs, and when the machine stops. -/

namespace Sys2Proof.Machine

open Sys2Proof.Safety

/-! ### Single-step commands -/

/-- The `VALUE` a single-step command responds with (R74, R92 to R95). -/
def atomicValue : Instr → State → Byte
  | .readErr, s => s.err
  | .crc8Step data acc, s => crc8Step s.cfg acc data
  | .crc8Compute bytes, s => crc8 s.cfg 0 bytes
  | .crc8CheckRom rom, s => romValue s.cfg rom
  | .crc8CheckScratchpad sp, s => scratchpadValue s.cfg sp
  | _, _ => 0

/-- A well-formed command that is no command of several steps is one atomic step (R74, R91). -/
theorem exec_eq_runAtomic {i : Instr} (hstart : startOf i = none) (hwf : i.wellFormed = true) (s : State) :
    exec i s = runAtomic i (atomicValue i) s := by
  cases i with
  | readErr | crc8Step => rfl
  | crc8Compute | crc8CheckRom | crc8CheckScratchpad => exact if_pos (of_decide_eq_true hwf)
  | acquire | release | reset | writeBit | readBit | writeByte | readByte => cases hstart

/-- A single-step command by an idle agent: its response, and nothing else. -/
theorem exec_atomic {i : Instr} {s : State} (hstart : startOf i = none) (hwf : i.wellFormed = true) (hidle : Idle s) :
    exec i s = .next { s with
      hist := histWith s [.respond .ok (atomicValue i s)], agents := agentsAfter s .ok (atomicValue i s) } := by
  rw [exec_eq_runAtomic hstart hwf, runAtomic_idle hidle, respond_ok_eq]

/-- Settles O18: the value is `ERR`. -/
theorem readErrReturnsErr : Obligations.ReadErrReturnsErr := fun _ hidle => exec_atomic rfl rfl hidle

/-- Settles O19: the value is the table's entry. -/
theorem crc8StepReturnsEntry : Obligations.Crc8StepReturnsEntry := fun _ _ _ hidle => exec_atomic rfl rfl hidle

/-- Settles O21: the value is the fold. -/
theorem crc8ComputeReturnsCrc : Obligations.Crc8ComputeReturnsCrc :=
  fun _ _ hidle hlen => exec_atomic rfl (decide_eq_true hlen) hidle

/-- The bits of CRC8_CHECK_ROM's value: `valid`, `crc_ok`, `family_ok`, and zeros (R94). -/
theorem flags_bits (crcOk familyOk : Bool) :
    let v := flag (crcOk && familyOk) ||| (flag crcOk <<< 1) ||| (flag familyOk <<< 2)
    v.getLsbD 1 = crcOk ∧ v.getLsbD 2 = familyOk ∧ v.getLsbD 0 = (v.getLsbD 1 && v.getLsbD 2) ∧
      v.extractLsb' 3 5 = 0 := by
  revert crcOk familyOk; decide

/-- Settles O22: the value is the three flags. -/
theorem checkRomReportsThreeBits : Obligations.CheckRomReportsThreeBits := by
  intro s f s1 s2 s3 s4 s5 s6 crc hidle
  have hbits := flags_bits (romCrcOk s.cfg [f, s1, s2, s3, s4, s5, s6, crc])
    (romFamilyOk [f, s1, s2, s3, s4, s5, s6, crc])
  obtain ⟨hcrc, hfamily, hvalid, hzero⟩ := hbits
  have hcrc' : romCrcOk s.cfg [f, s1, s2, s3, s4, s5, s6, crc] =
      decide (crc8 s.cfg 0 [f, s1, s2, s3, s4, s5, s6] = crc) := Bool.beq_eq_decide_eq ..
  have hfamily' : romFamilyOk [f, s1, s2, s3, s4, s5, s6, crc] = decide (f ≠ 0x00) := by
    rw [Bool.eq_iff_iff, decide_eq_true_iff]; exact bne_iff_ne
  exact ⟨_, exec_atomic rfl rfl hidle, hcrc.trans hcrc', hfamily.trans hfamily', hvalid, hzero⟩

/-- Settles O23: the value is the one flag. -/
theorem checkScratchpadReportsValidity : Obligations.CheckScratchpadReportsValidity := by
  intro s b0 b1 b2 b3 b4 b5 b6 b7 crc hidle
  refine ⟨_, exec_atomic rfl rfl hidle, ?_⟩
  simp [atomicValue, scratchpadValue, scratchpadOk, scratchpadCovered, scratchpadCrc, payloadByte, flag]

/-- Settles O24: the ill-formed terms are the lists of a wrong length, and each has its own check. -/
theorem illFormedCrcCommandRefused : Obligations.IllFormedCrcCommandRefused := by
  intro s i hwf
  cases i with
  | crc8Compute | crc8CheckRom | crc8CheckScratchpad => exact if_neg (of_decide_eq_false hwf)
  | acquire | release | readErr | reset | writeBit | readBit | writeByte | readByte | crc8Step => cases hwf

/-! ### The turn -/

section Turn

variable {s : State} {a : Nat}

/-- A step at the turn of agent `a`. -/
theorem step_of_agent (hadm : s.cfg.admitted = true) (hturn : s.nextTurn = .agent a) :
    step s = takeFetched (fetchAgent a (s.useTurn.activate a)) := by
  simp only [step, fetch, hadm, if_true, hturn]

/-- A step at the host's block reset (R119). -/
theorem step_of_blockReset (hadm : s.cfg.admitted = true) (hturn : s.nextTurn = .blockReset) :
    step s = takeFetched (fetchReset s.useTurn) := by
  simp only [step, fetch, hadm, if_true, hturn]

/-- The next turn chosen from outside (log 3). -/
theorem nextTurn_of_turns {t : Turn} {rest : List Turn} (h : s.turns = t :: rest) : s.nextTurn = t := by
  simp [State.nextTurn, h]

/-- Using a turn chosen from outside. -/
theorem useTurn_of_turns {t : Turn} {rest : List Turn} (h : s.turns = t :: rest) :
    s.useTurn = { s with turns := rest } := by
  simp [State.useTurn, h]

/-- A step at a turn of agent `a` chosen from outside. -/
theorem step_of_turns {rest : List Turn} (hadm : s.cfg.admitted = true) (hturns : s.turns = .agent a :: rest) :
    step s = takeFetched (fetchAgent a { s with turns := rest, active := a }) := by
  rw [step_of_agent hadm (nextTurn_of_turns hturns), useTurn_of_turns hturns]
  rfl

/-- The next turn, and its use, where none is chosen from outside: a free turn (log 3). -/
theorem nextTurn_of_nil (h : s.turns = []) : s.nextTurn = .agent (Config.freeTurn s.turnCount % s.cfg.nAgents) := by
  simp [State.nextTurn, h]

theorem useTurn_of_nil (h : s.turns = []) : s.useTurn = { s with turnCount := s.turnCount + 1 } := by
  simp [State.useTurn, h]

/-- A turn of an agent with a command in flight. -/
theorem fetchAgent_of_running {f : Flight} (h : s.phaseOf a = some (.running f)) : fetchAgent a s = .run f.instr s := by
  obtain ⟨ag, hag, hphase⟩ := State.phaseOf_eq_some h
  simp [fetchAgent, hag, hphase]

/-- A turn of an idle agent with nothing to issue. -/
theorem fetchAgent_of_nothing {ag : Agent} (hag : s.agents[a]? = some ag) (hidle : ag.phase = .idle)
    (hnext : nextCommand ag.last ag.jobs = none) : fetchAgent a s = .settled (s.setJobs a []) := by
  simp only [fetchAgent, hag, hidle, hnext]

/-- A turn of an idle agent with a command to issue. -/
theorem fetchAgent_of_next {ag : Agent} {c : Command} {jobs : List Job} (hag : s.agents[a]? = some ag)
    (hidle : ag.phase = .idle) (hnext : nextCommand ag.last ag.jobs = some (c, jobs)) :
    fetchAgent a s = fetchIssue c (s.takeJob a jobs) := by
  simp only [fetchAgent, hag, hidle, hnext]

/-- A turn of an agent that is `FAULTED` or not there. -/
theorem fetchAgent_of_stopped (h : s.phaseOf a = some .faulted ∨ s.phaseOf a = none) : fetchAgent a s = .settled s := by
  unfold State.phaseOf at h
  cases hag : s.agents[a]? with
  | none => simp [fetchAgent, hag]
  | some ag => simp_all [fetchAgent]

end Turn

/-- Settles O2: the block reset's state is the one written out, and a command in flight is not quiet. -/
theorem blockResetAdmittedOnlyWhenQuiet : Obligations.BlockResetAdmittedOnlyWhenQuiet := by
  intro s rest hadm hturns
  have hstep : step s = takeFetched (fetchReset { s with turns := rest }) := by
    rw [step_of_blockReset hadm (nextTurn_of_turns hturns), useTurn_of_turns hturns]
  rw [hstep, fetchReset]
  refine ⟨fun hquiet => ?_, fun ⟨ag, hag, f, hf⟩ => ?_⟩
  · rw [if_pos (List.all_eq_true.mpr fun ag hag => ?_)]
    · rfl
    · obtain h | h := hquiet ag hag <;> simp [Agent.quiet, h]
  · rw [if_neg fun hall => ?_]
    · rfl
    · simpa [Agent.quiet, hf] using List.all_eq_true.mp hall ag hag

/-- Settles O3: the command is issued, and the decoder's answer is the instruction. -/
theorem stepRunsDecodedCommand : Obligations.StepRunsDecodedCommand := by
  intro s a rest ag c jobs i hadm hturns hag hidle hjobs hdecode
  rw [step_of_command hadm hturns hag hidle hjobs, useTurn_of_turns hturns]
  simp only [fetchIssue, hdecode, takeFetched]
  rfl

/-- A step at the turn of an agent with a command in flight is that command's next step. -/
theorem step_of_running {s : State} {a : Nat} {f : Flight} (hadm : s.cfg.admitted = true)
    (hturn : s.nextTurn = .agent a) (hf : s.phaseOf a = some (.running f)) :
    step s = exec f.instr (s.useTurn.activate a) ∧ ∃ t, step s = .next t := by
  have hf' : (s.useTurn.activate a).phaseOf a = some (.running f) := ((sameBlock_activate s a).phaseOf a).trans hf
  have hstep : step s = exec f.instr (s.useTurn.activate a) := by
    rw [step_of_agent hadm hturn, fetchAgent_of_running hf', takeFetched]
  exact ⟨hstep, _, hstep.trans (exec_continue hf')⟩

/-- Settles O4: `step_of_running`, at a turn from outside and at a free turn. -/
theorem stepContinuesCommandInFlight : Obligations.StepContinuesCommandInFlight := by
  intro s a f hadm hf
  refine ⟨fun rest hturns => ?_, fun hturns hfree => ?_⟩
  · have h := step_of_running hadm (nextTurn_of_turns hturns) hf
    rwa [useTurn_of_turns hturns] at h
  · have h := step_of_running hadm ((nextTurn_of_nil hturns).trans (congrArg Turn.agent hfree)) hf
    rwa [useTurn_of_nil hturns] at h

/-- A change of agent `a` that leaves it as it is leaves the agents. -/
theorem modify_eq_self {l : List Agent} {a : Nat} {f : Agent → Agent} (h : ∀ ag, l[a]? = some ag → f ag = ag) :
    l.modify a f = l := by
  refine List.ext_getElem? fun b => ?_
  rw [List.getElem?_modify]
  split
  · rename_i hb; subst hb; cases hag : l[a]? with
    | none => rfl
    | some ag => exact congrArg some (h ag hag)
  · exact Option.map_id'

/-- Keeping no jobs leaves an agent that has none. -/
theorem setJobs_nil_of_jobs_nil {s : State} {a : Nat} {ag : Agent} (hag : s.agents[a]? = some ag)
    (hjobs : ag.jobs = []) : s.setJobs a [] = s := by
  have hmodify : s.agents.modify a (fun g => { g with jobs := [] }) = s.agents := modify_eq_self fun g hg => by
    obtain rfl := Option.some.inj (hag.symm.trans hg)
    rw [← hjobs]
  simp only [State.setJobs, State.modifyAgent, hmodify]

/-- Settles O5: the turn is settled at once, or leaves an empty list of jobs empty. -/
theorem turnWithoutAStepPasses : Obligations.TurnWithoutAStepPasses := by
  intro s a rest hadm hturns hnone
  rw [step_of_turns hadm hturns]
  obtain hstopped | habsent | ⟨ag, hag, hidle, hjobs⟩ := hnone
  · rw [fetchAgent_of_stopped (s := { s with turns := rest, active := a }) (.inl hstopped), takeFetched]
  · rw [fetchAgent_of_stopped (s := { s with turns := rest, active := a }) (.inr habsent), takeFetched]
  · have hnext : nextCommand ag.last ag.jobs = none := by rw [hjobs]; rfl
    rw [fetchAgent_of_nothing (s := { s with turns := rest, active := a }) hag hidle hnext,
      setJobs_nil_of_jobs_nil (s := { s with turns := rest, active := a }) hag hjobs, takeFetched]

/-! ### Illegal commands -/

/-- An illegal command by agent `a`: its `ERR` bit, its event, its record and its response. -/
theorem illegalStep_eq {s : State} {a : Nat} {ag : Agent} {st : Status} {k : FaultKind} {w : Word} {jobs : List Job}
    (hag : s.agents[a]? = some ag) (hkind : st.faultKind = some k) :
    illegalStep st w ((s.activate a).takeJob a jobs) = { s with
      active := a, err := s.err ||| st.errBit,
      hist := s.hist ++ [⟨a, ag.seq, .respond st 0x00⟩],
      faults := s.faults ++ [⟨a, ag.seq, w, k⟩],
      agents := s.agents.modify a
        (fun g => { g with
          jobs := jobs, phase := .idle, seq := g.seq + 1, last := some (responseWord st 0x00) }) } := by
  have hseq : (((s.activate a).takeJob a jobs).setErr st).seqOf a = ag.seq := by simp [State.seqOf, hag]
  simp only [illegalStep, State.takeJob_active, State.activate_active, State.respond_eq, hseq, hkind]
  simp only [State.setErr_agents, State.takeJob_agents, List.modify_modify_eq]
  rfl

/-- A step at the turn of an idle agent whose command decodes as illegal. -/
theorem step_of_illegal {s : State} {a : Nat} {rest : List Turn} {ag : Agent} {c : Command} {jobs : List Job}
    {st : Status} {k : FaultKind} (hadm : s.cfg.admitted = true) (hturns : s.turns = .agent a :: rest)
    (hag : s.agents[a]? = some ag) (hidle : ag.phase = .idle) (hjobs : ag.jobs = .command c :: jobs)
    (hkind : st.faultKind = some k)
    (hissue : ∀ u, takeFetched (fetchIssue c u) = .next (illegalStep st c.word u)) :
    step s = .next { s with
      turns := rest, active := a, err := s.err ||| st.errBit,
      hist := s.hist ++ [⟨a, ag.seq, .respond st 0x00⟩],
      faults := s.faults ++ [⟨a, ag.seq, c.word, k⟩],
      agents := s.agents.modify a
        (fun g => { g with
          jobs := jobs, phase := .idle, seq := g.seq + 1, last := some (responseWord st 0x00) }) } := by
  rw [step_of_command hadm hturns hag hidle hjobs, hissue, useTurn_of_turns hturns,
    illegalStep_eq (s := { s with turns := rest }) hag hkind]

/-- Settles O6: the ranges are the bytes that name no opcode, whose payload is empty. -/
theorem illegalOpcodeEffect : Obligations.IllegalOpcodeEffect := by
  intro s a rest ag w jobs hadm hturns hag hidle hjobs hopc
  have hnone := Laws.ofByte_eq_none_iff.mpr hopc
  have hlen : ([] : List Byte).length = payloadLen (opcOf w) (opndOf w) := by simp [payloadLen, hnone]
  have hdecode : decode ⟨w, []⟩ = .illegalOpcode := (Laws.decode_eq_illegalOpcode_iff hlen).mpr hnone
  exact step_of_illegal (st := .illegalOpcode) hadm hturns hag hidle hjobs rfl fun u => by
    simp only [fetchIssue, hdecode, takeFetched, illegalOpcodeStep]

/-- Settles O7: the operands are those R60 leaves no meaning, and the other opcodes take every operand. -/
theorem illegalOperandEffect : Obligations.IllegalOperandEffect := by
  refine ⟨fun s a rest ag w p jobs o hadm hturns hag hidle hjobs hopc hlen hopnd => ?_, fun w p o hopc ho hdecode => ?_⟩
  · have hillegal : ∃ o, Opcode.ofByte (opcOf w) = some o ∧ ¬ Laws.OperandLegal o (opndOf w) :=
      ⟨o, Laws.ofByte_eq_some_iff.mpr hopc, Laws.not_operandLegal_iff.mpr hopnd⟩
    have hdecode : decode ⟨w, p⟩ = .illegalOperand := (Laws.decode_eq_illegalOperand_iff hlen).mpr hillegal
    exact step_of_illegal (st := .illegalOperand) hadm hturns hag hidle hjobs rfl fun u => by
      simp only [fetchIssue, hdecode, takeFetched, illegalOperandStep]
  · have hlen : p.length = payloadLen (opcOf w) (opndOf w) := by
      by_contra hne
      rw [Laws.decode_of_length_ne (c := ⟨w, p⟩) hne] at hdecode
      cases hdecode
    obtain ⟨o', ho', hillegal⟩ := (Laws.decode_eq_illegalOperand_iff (c := ⟨w, p⟩) hlen).mp hdecode
    obtain rfl := Option.some.inj ((Laws.ofByte_eq_some_iff.mpr hopc).symm.trans ho')
    exact hillegal (.inr (.inr ho))

/-! ### The poll loop -/

/-- READ_BIT's command decodes to READ_BIT. -/
theorem decode_pollCommand : decode pollCommand = .legal .readBit := Laws.decode_encode rfl

/-- The poll loop goes on until a READ_BIT of it has responded with `VALUE` = 0x01 (R63). -/
theorem nextCommand_poll {last : Option Word} {started : Bool} {jobs : List Job}
    (h : started = true → ∀ w, last = some w → opndOf w ≠ 0x01) :
    nextCommand last (.poll started :: jobs) = some (pollCommand, .poll true :: jobs) := by
  have hgoes : (started && pollDone last) = false := by
    cases started with
    | false => rfl
    | true =>
      cases last with
      | none => rfl
      | some w => exact beq_eq_false_iff_ne.mpr (h rfl w rfl)
  simp [nextCommand, hgoes]

/-- The poll loop is over once a READ_BIT of it has responded with `VALUE` = 0x01. -/
theorem nextCommand_poll_done {w : Word} {jobs : List Job} (h : opndOf w = 0x01) :
    nextCommand (some w) (.poll true :: jobs) = nextCommand (some w) jobs := by
  simp [nextCommand, pollDone, h]

/-- What an idle agent does depends on its jobs only by the command they give. -/
theorem fetchAgent_setJobs {s : State} {a : Nat} {ag : Agent} {jobs : List Job} (hag : s.agents[a]? = some ag)
    (hidle : ag.phase = .idle) (hnext : nextCommand ag.last jobs = nextCommand ag.last ag.jobs) :
    fetchAgent a (s.setJobs a jobs) = fetchAgent a s := by
  have hag' : (s.setJobs a jobs).agents[a]? = some { ag with jobs := jobs } := by simp [hag]
  cases hn : nextCommand ag.last ag.jobs with
  | none =>
    rw [fetchAgent_of_nothing hag hidle hn, fetchAgent_of_nothing hag' hidle (hnext.trans hn)]
    simp only [State.setJobs, State.modifyAgent, List.modify_modify_eq]
    rfl
  | some cj =>
    obtain ⟨c, js⟩ := cj
    rw [fetchAgent_of_next hag hidle hn, fetchAgent_of_next hag' hidle (hnext.trans hn)]
    simp only [State.takeJob, State.setJobs, State.modifyAgent, List.modify_modify_eq]
    rfl

/-- Settles O11: while the loop goes on its READ_BIT is issued, and once it is over its jobs are as those after it. -/
theorem pollLoopIsUnbounded : Obligations.PollLoopIsUnbounded := by
  refine ⟨fun s a rest ag started jobs hadm hturns hag hidle hjobs hgoes => ?_,
    fun s a rest ag w jobs hadm hturns hag hidle hjobs hlast hdone => ?_⟩
  · have hnext : nextCommand ag.last ag.jobs = some (pollCommand, .poll true :: jobs) := by
      rw [hjobs, nextCommand_poll hgoes]
    rw [step_of_turns hadm hturns, fetchAgent_of_next (s := { s with turns := rest, active := a }) hag hidle hnext,
      fetchIssue, decode_pollCommand, takeFetched]
    rfl
  · have hnext : nextCommand ag.last jobs = nextCommand ag.last ag.jobs := by
      rw [hjobs, hlast, nextCommand_poll_done hdone]
    have hsame := fetchAgent_setJobs (s := { s with turns := rest, active := a }) hag hidle hnext
    calc step s
        = takeFetched (fetchAgent a { s with turns := rest, active := a }) := step_of_turns hadm hturns
      _ = takeFetched (fetchAgent a (State.setJobs { s with turns := rest, active := a } a jobs)) := by rw [hsame]
      _ = step (s.setJobs a jobs) := (step_of_turns (s := s.setJobs a jobs) hadm hturns).symm

/-! ### Where the machine stops -/

/-- A command is handed over by its agent, or is the poll loop's READ_BIT. -/
theorem mem_of_nextCommand {last : Option Word} {c : Command} {rest : List Job} {jobs : List Job}
    (h : nextCommand last jobs = some (c, rest)) : .command c ∈ jobs ∨ c = pollCommand := by
  induction jobs with
  | nil => cases h
  | cons job jobs ih =>
    cases job with
    | command d => cases h; exact .inl (.head _)
    | poll started =>
      rw [nextCommand] at h
      split at h
      · exact (ih h).imp_left (.tail _)
      · cases h; exact .inr rfl

/-- An idle agent takes the first step of any well-formed command. -/
theorem exec_idle_next {i : Instr} {s : State} (hidle : Idle s) (hwf : i.wellFormed = true) :
    ∃ t, exec i s = .next t := by
  cases hstart : startOf i with
  | none => exact ⟨_, exec_atomic hstart hwf hidle⟩
  | some f => exact ⟨_, exec_start hstart hidle⟩

/-- An issued command has a next state, unless its payload has the wrong length (R56). -/
theorem takeFetched_fetchIssue (c : Command) {s : State} (hidle : Idle s) :
    (∃ t, takeFetched (fetchIssue c s) = .next t) ∨
    decode c = .payloadLength ∧ takeFetched (fetchIssue c s) = .refused .payloadLength := by
  unfold fetchIssue
  cases hdecode : decode c with
  | legal i => exact .inl (exec_idle_next hidle (Laws.encodeOfDecode c i hdecode).2)
  | illegalOpcode | illegalOperand => exact .inl ⟨_, rfl⟩
  | payloadLength => exact .inr ⟨rfl, rfl⟩

/-- A command with a payload of the right length is not refused. -/
theorem length_ne_of_decode {c : Command} (h : decode c = .payloadLength) :
    c.payload.length ≠ payloadLen (opcOf c.word) (opndOf c.word) := by
  intro hlen
  obtain ⟨-, hd⟩ | ⟨o, -, ⟨-, i, hd⟩ | ⟨-, hd⟩⟩ := Laws.decode_cases hlen <;> cases h.symm.trans hd

/-- A turn of an agent ends in a next state, unless the agent issues a command with a payload of the wrong length. -/
theorem takeFetched_fetchAgent (s : State) :
    (∃ t, takeFetched (fetchAgent s.active s) = .next t) ∨
    takeFetched (fetchAgent s.active s) = .refused .payloadLength ∧
      ∃ ag c, s.agents[s.active]? = some ag ∧ ag.phase = .idle ∧ .command c ∈ ag.jobs ∧
        c.payload.length ≠ payloadLen (opcOf c.word) (opndOf c.word) := by
  obtain ⟨-, e⟩ | ⟨-, e⟩ | ⟨f, hf, e⟩ | ⟨-, e⟩ | ⟨hidle, ag, c, jobs, hag, hnext, e⟩ := fetchAgent_cases s.active s <;>
    rw [e]
  · exact .inl ⟨_, rfl⟩
  · exact .inl ⟨_, rfl⟩
  · exact .inl ⟨_, exec_continue hf⟩
  · exact .inl ⟨_, rfl⟩
  · have hidle' : Idle (s.takeJob s.active jobs) := (State.phaseOf_takeJob ..).trans hidle
    refine (takeFetched_fetchIssue c hidle').imp_right fun ⟨hdecode, hrefused⟩ => ⟨hrefused, ag, c, hag, ?_, ?_, ?_⟩
    · simpa [State.phaseOf, hag] using hidle
    · refine (mem_of_nextCommand hnext).resolve_right ?_
      rintro rfl
      cases decode_pollCommand.symm.trans hdecode
    · exact length_ne_of_decode hdecode

/-- Everything a step can answer: a next state, or one of the three refusals with its cause (R105). -/
theorem step_answers (s : State) :
    (∃ t, step s = .next t) ∨
    (step s = .refused .configuration ∧ s.cfg.admitted = false) ∨
    (step s = .refused .resetInFlight ∧ s.nextTurn = .blockReset ∧ ∃ ag ∈ s.agents, ∃ f, ag.phase = .running f) ∨
    (step s = .refused .payloadLength ∧ ∃ a ag c, s.nextTurn = .agent a ∧ s.agents[a]? = some ag ∧ ag.phase = .idle ∧
      .command c ∈ ag.jobs ∧ c.payload.length ≠ payloadLen (opcOf c.word) (opndOf c.word)) := by
  cases hadm : s.cfg.admitted with
  | false => exact .inr (.inl ⟨step_of_not_admitted (by simp [hadm]), rfl⟩)
  | true =>
    cases hturn : s.nextTurn with
    | blockReset =>
      rw [step_of_blockReset hadm hturn, fetchReset]
      split
      · exact .inl ⟨_, rfl⟩
      · rename_i hbusy
        obtain ⟨ag, hag, hquiet⟩ := by simpa using hbusy
        refine .inr (.inr (.inl ⟨rfl, rfl, ag, hag, ?_⟩))
        cases hphase : ag.phase with
        | running f => exact ⟨f, rfl⟩
        | idle | faulted => simp [Agent.quiet, hphase] at hquiet
    | agent a =>
      rw [step_of_agent hadm hturn]
      refine (takeFetched_fetchAgent (s.useTurn.activate a)).imp_right fun ⟨hrefused, ag, c, hag, hrest⟩ => ?_
      exact .inr (.inr ⟨hrefused, a, ag, c, rfl, by simpa using hag, hrest⟩)

/-- Settles O10: each refusal is the answer of its own cause, and no answer is a fault. -/
theorem stepStopsOnlyAsR105Says : Obligations.StepStopsOnlyAsR105Says := by
  intro s
  obtain ⟨t, h⟩ | ⟨h, hcause⟩ | ⟨h, hcause⟩ | ⟨h, hcause⟩ := step_answers s <;> rw [h] <;> refine ⟨nofun, ?_⟩
  · exact nofun
  · rintro _ ⟨⟩; exact .inl ⟨rfl, hcause⟩
  · rintro _ ⟨⟩; exact .inr (.inl ⟨rfl, hcause⟩)
  · rintro _ ⟨⟩; exact .inr (.inr ⟨rfl, hcause⟩)

end Sys2Proof.Machine
end

section
/-! PROOFS. The results of commands (R57, R100): what a command in flight will respond with, and how `ERR` is accounted
for. -/

namespace Sys2Proof.Machine

open Sys2Proof.Safety

/-! ### The result an agent's command has fixed -/

/-- The result agent `a` will respond with, where it is fixed already. -/
def State.resultOf (s : State) (a : Nat) : Option (Status × Byte) := (s.phaseOf a).bind phaseResult

/-- A result is that of a command in flight. -/
theorem State.resultOf_eq_some_iff {s : State} {a : Nat} {r : Status × Byte} :
    s.resultOf a = some r ↔ ∃ f, s.phaseOf a = some (.running f) ∧ flightResult f = some r := by
  unfold State.resultOf
  cases s.phaseOf a with
  | none => simp
  | some p => cases p <;> simp [phaseResult]

theorem State.resultOf_eq {s : State} {a : Nat} {p : Phase} (h : s.phaseOf a = some p) :
    s.resultOf a = phaseResult p := by
  simp [State.resultOf, h]

theorem State.resultOf_congr {s t : State} {a : Nat} (h : t.phaseOf a = s.phaseOf a) : t.resultOf a = s.resultOf a := by
  rw [State.resultOf, State.resultOf, h]

/-- R57, by the results. -/
theorem errorsHaveNoValue_iff {s : State} :
    ErrorsHaveNoValue s ↔ ∀ a st v, s.resultOf a = some (st, v) → st ≠ .ok → v = 0x00 := by
  simp only [State.resultOf_eq_some_iff]
  exact ⟨fun h a st v ⟨f, hf, hr⟩ => h a f st v hf hr, fun h a f st v hf hr => h a st v ⟨f, hf, hr⟩⟩

/-- R100, by the results. -/
theorem errRecorded_iff {s : State} :
    ErrRecorded s ↔ (s.err ≠ 0 → s.faults ≠ [] ∨ ∃ a st v, s.resultOf a = some (st, v) ∧ st ≠ .ok) := by
  simp only [State.resultOf_eq_some_iff]
  refine imp_congr_right fun _ => or_congr_right ?_
  exact ⟨fun ⟨a, f, st, v, hf, hr, hst⟩ => ⟨a, st, v, ⟨f, hf, hr⟩, hst⟩,
    fun ⟨a, st, v, ⟨f, hf, hr⟩, hst⟩ => ⟨a, f, st, v, hf, hr, hst⟩⟩

/-! ### The result at a step -/

section Op

variable {a : Nat} {s u : State} {v v' : View}

/-- A step that goes on keeps the result, or fixes a status error without a value (R57, R68, R69). -/
theorem Op.result (hop : Op a s v u v') :
    Keeps v.result v'.result ∨ v.result = none ∧ ∃ st, st ≠ .ok ∧ v'.result = some (st, 0x00) := by
  cases hop with
  | overflow | underflow => exact .inr ⟨rfl, _, by simp, rfl⟩
  | counted _ _ _ hr | uncounted _ _ _ hr | heldUnderflow _ hr | enter hr | nestedEnter hr | exit hr | nestedExit hr
  | driveLow hr | lineRelease hr | delay _ hr | sample hr => exact .inl hr

/-- A step that goes on and sets an `ERR` bit fixes a status error; no other underflows, in a state that fits its
position. -/
theorem Op.err (hop : Op a s v u v') (hfits : Fits s a v) :
    u.err = s.err ∨ ∃ st x, v'.result = some (st, x) ∧ st ≠ .ok := by
  cases hop with
  | overflow | underflow => exact .inr ⟨_, _, rfl, by simp⟩
  | heldUnderflow hc =>
    have hpos := (hfits.owned (hfits.holder (by simp))).1.1
    omega
  | counted | enter | nestedEnter | uncounted | exit | nestedExit | driveLow | lineRelease | delay | sample =>
    exact .inl (by simp)

/-- A step that goes on adds no record. -/
theorem Op.faults (hop : Op a s v u v') : u.faults = s.faults := by
  cases hop <;> simp

/-- A status error once fixed stays until the response. -/
theorem Keeps.error {r r' : Option (Status × Byte)} (h : Keeps r r') {st : Status} {x : Byte} (hr : r = some (st, x)) :
    r' = some (st, x) := by
  obtain rfl | ⟨rfl, -⟩ := h
  · exact hr
  · cases hr

/-- The results after a step that goes on to `q`: the agent's is `q`'s, the others stay. -/
theorem resultOf_setPhase {p q : Phase} (hop : Op a s (view p) u (view q)) (hp : s.phaseOf a = some p) :
    (u.setPhase a q).resultOf a = phaseResult q ∧ ∀ b, b ≠ a → (u.setPhase a q).resultOf b = s.resultOf b := by
  have hp' : u.phaseOf a = some p := (State.phaseOf_congr hop.agents a).trans hp
  refine ⟨State.resultOf_eq (State.phaseOf_setPhase_self q hp'), fun b hb => State.resultOf_congr ?_⟩
  rw [State.phaseOf_setPhase_ne u q hb.symm, State.phaseOf_congr hop.agents]

end Op

/-! ### `VALUE` is 0x00 whenever `STATUS` is not `OK` -/

/-- A step of a command keeps R57. -/
theorem Move.errorsHaveNoValue {a : Nat} {w : Word} {s t : State} {p : Phase} (hmove : Move a w s (view p) t)
    (hp : s.phaseOf a = some p) (hs : ErrorsHaveNoValue s) : ErrorsHaveNoValue t := by
  rw [errorsHaveNoValue_iff] at hs ⊢
  intro b st x hresult hst
  by_cases hb : b = a
  · subst hb
    cases hmove with
    | contention =>
      rw [State.resultOf_eq (State.phaseOf_raiseContention_self w hp)] at hresult
      cases hresult
    | respond =>
      rw [State.resultOf_eq (State.phaseOf_respond_self w _ _ hp)] at hresult
      cases hresult
    | onward hq hop =>
      subst hq
      rw [(resultOf_setPhase hop hp).1] at hresult
      obtain (hkeep | ⟨-, y, hok⟩) | ⟨-, st', -, herr⟩ := hop.result
      · exact hs b st x ((State.resultOf_eq hp).trans (hkeep.symm.trans hresult)) hst
      · cases hok.symm.trans hresult; exact absurd rfl hst
      · cases herr.symm.trans hresult; rfl
  · refine hs b st x (Eq.trans ?_ hresult) hst
    cases hmove with
    | contention => exact (State.resultOf_congr (State.phaseOf_raiseContention_ne s w (Ne.symm hb))).symm
    | respond => exact (State.resultOf_congr (State.phaseOf_respond_ne s w _ _ (Ne.symm hb))).symm
    | onward hq hop => subst hq; exact ((resultOf_setPhase hop hp).2 b hb).symm

/-- R57 is about the phases. -/
theorem errorsHaveNoValue_congr {s u : State} (h : ∀ a, u.phaseOf a = s.phaseOf a) (hs : ErrorsHaveNoValue s) :
    ErrorsHaveNoValue u :=
  fun a f st v hf => hs a f st v ((h a).symm.trans hf)

/-- A step of the machine keeps R57. -/
theorem step_errorsHaveNoValue {s t : State} (hs : ErrorsHaveNoValue s) (h : step s = .next t) :
    ErrorsHaveNoValue t := by
  cases (step_stepCase h).2 with
  | reset =>
    intro a f st v hf
    obtain ⟨ag, hag, hphase⟩ := State.phaseOf_eq_some hf
    obtain ⟨g, -, rfl⟩ := List.mem_map.mp (List.mem_of_getElem? hag)
    cases hphase
  | passed _ hu => exact errorsHaveNoValue_congr hu.phaseOf hs
  | ran _ hu _ hexec =>
    obtain ⟨p, hp, hmove⟩ := exec_move hexec
    exact hmove.errorsHaveNoValue hp (errorsHaveNoValue_congr hu.phaseOf hs)
  | illegal _ hu hidle =>
    exact (illegalStep_move _).errorsHaveNoValue hidle (errorsHaveNoValue_congr hu.phaseOf hs)

/-- A step of a command that responds does so with the result that is fixed, or without a value if it is an error. -/
theorem Move.respond_of_event {a b q : Nat} {w : Word} {s t : State} {v : View} {st : Status} {x : Byte}
    (hmove : Move a w s v t) (hhist : t.hist = s.hist ++ [⟨b, q, .respond st x⟩]) :
    v.result = some (st, x) ∨ (st ≠ .ok → x = 0x00) := by
  cases hmove with
  | contention => simp at hhist
  | respond _ _ hresult =>
    simp only [State.respond_hist, List.append_cancel_left_eq, List.cons.injEq, Event.mk.injEq,
      EventKind.respond.injEq, and_true] at hhist
    obtain ⟨-, -, rfl, rfl⟩ := hhist
    exact hresult.imp_right And.right
  | onward _ hop => cases hop <;> simp at hhist

/-- A response of a step of the machine carries no value with an error. -/
theorem step_respond_value {s t : State} {b q : Nat} {st : Status} {x : Byte} (hs : ErrorsHaveNoValue s)
    (h : step s = .next t) (hhist : t.hist = s.hist ++ [⟨b, q, .respond st x⟩]) (hst : st ≠ .ok) : x = 0x00 := by
  cases (step_stepCase h).2 with
  | reset => simp at hhist
  | passed _ hu => simp [hu.hist] at hhist
  | @ran u _ _ _ hu _ hexec =>
    obtain ⟨p, hp, hmove⟩ := exec_move hexec
    obtain hresult | hvalue := hmove.respond_of_event (hu.hist ▸ hhist)
    · have hs' := errorsHaveNoValue_iff.mp (errorsHaveNoValue_congr hu.phaseOf hs)
      exact hs' u.active st x ((State.resultOf_eq hp).trans hresult) hst
    · exact hvalue hst
  | @illegal u st' _ _ hu _ _ _ =>
    have hvalue := (illegalStep_move st').respond_of_event (by rw [State.setErr_hist, hu.hist, hhist])
    exact hvalue.resolve_left nofun hst

/-- Settles O58: results keep the rule, responses are results, and the word is put together from the status' code and
the value. -/
theorem errorResponsesCarryNoValue : Obligations.ErrorResponsesCarryNoValue := by
  refine ⟨fun s t hs h => step_errorsHaveNoValue hs h,
    fun s t a q st v hs h hhist hst => step_respond_value hs h hhist hst, fun s t a q st v h hhist => ?_⟩
  obtain ⟨u, w, p, hp, -, -, -, rfl⟩ := step_eq_respond h hhist
  obtain ⟨ag, hag, -⟩ := State.phaseOf_eq_some hp
  refine ⟨ag.responded st v, responseWord st v, by simp [hag], rfl, Laws.opndOf_append st.code v, ?_⟩
  exact (Laws.opcOf_append st.code v).trans (by cases st <;> rfl)

/-! ### `ERR` is accounted for -/

/-- A response with an error adds a record (R100). -/
theorem respond_faults_ne_nil {s : State} {a : Nat} {w : Word} {st : Status} {v : Byte} (hst : st ≠ .ok) :
    (s.respond a w st v).faults ≠ [] := by
  rw [State.respond_faults]
  cases st with
  | ok => exact absurd rfl hst
  | illegalOpcode | illegalOperand | guardUnderflow | guardOverflow => simp [Status.faultKind]

/-- A step of a command keeps the account of `ERR`: a bit it sets has its status error fixed, and an error that is fixed
stays so until it is recorded. -/
theorem Move.errRecorded {a : Nat} {w : Word} {s t : State} {p : Phase} (hmove : Move a w s (view p) t) (hs : Inv s)
    (hp : s.phaseOf a = some p) (hrec : ErrRecorded s) : ErrRecorded t := by
  rw [errRecorded_iff] at hrec ⊢
  intro herr
  cases hmove with
  | contention => exact .inl (by simp)
  | @respond st v _ _ hresult =>
    by_cases hst : st = .ok
    · subst hst
      obtain hfaults | ⟨b, st, x, hb, herror⟩ := hrec (by simpa using herr)
      · exact .inl fun hnil => hfaults (List.append_eq_nil_iff.mp (State.respond_faults .. ▸ hnil)).1
      · have hba : b ≠ a := by
          rintro rfl
          rw [State.resultOf_eq hp] at hb
          obtain h | ⟨h, -⟩ := hresult <;> cases hb.symm.trans h
          exact herror rfl
        exact .inr ⟨b, st, x, (State.resultOf_congr (State.phaseOf_respond_ne s w _ _ hba.symm)).trans hb, herror⟩
    · exact .inl (respond_faults_ne_nil hst)
  | @onward u v' q hq hop =>
    subst hq
    obtain ⟨hself, hother⟩ := resultOf_setPhase hop hp
    obtain hsame | ⟨st, x, hx, herror⟩ := hop.err (Fits.of_inv hs hp)
    · refine (hrec (hsame ▸ herr)).imp (fun hf => hop.faults ▸ hf) fun ⟨b, st, x, hb, herror⟩ => ?_
      by_cases hba : b = a
      · subst hba
        have hp' : phaseResult p = some (st, x) := (State.resultOf_eq hp).symm.trans hb
        refine ⟨b, st, x, hself.trans ?_, herror⟩
        obtain hkeep | ⟨hnone, -⟩ := hop.result
        · exact hkeep.error hp'
        · cases hnone.symm.trans hp'
      · exact ⟨b, st, x, (hother b hba).trans hb, herror⟩
    · exact .inr ⟨a, st, x, hself.trans hx, herror⟩

/-- The account of `ERR` is about the block. -/
theorem SameBlock.errRecorded {s u : State} (hu : SameBlock s u) (hs : ErrRecorded s) : ErrRecorded u := by
  unfold ErrRecorded at hs ⊢
  simpa only [hu.err, hu.faults, hu.phaseOf] using hs

/-- A step of the machine keeps the account of `ERR`. -/
theorem step_errRecorded {s t : State} (hs : Inv s) (hrec : ErrRecorded s) (h : step s = .next t) :
    ErrRecorded t := by
  cases (step_stepCase h).2 with
  | reset => exact fun herr => absurd rfl herr
  | passed _ hu => exact hu.errRecorded hrec
  | ran _ hu _ hexec =>
    obtain ⟨p, hp, hmove⟩ := exec_move hexec
    exact hmove.errRecorded (hu.inv hs) hp (hu.errRecorded hrec)
  | illegal _ _ _ _ hst =>
    refine fun _ => .inl (respond_faults_ne_nil ?_)
    obtain rfl | rfl := hst <;> simp

/-- Settles O57: every step keeps the account, and a success has no record and no command in flight. -/
theorem errIsAccountedFor : Obligations.ErrIsAccountedFor := by
  refine ⟨fun s t hs hrec h => step_errRecorded hs hrec h, fun s hrec hsuccess => ⟨hsuccess, ?_⟩⟩
  obtain ⟨hidle, -, -, -, -, hfaults⟩ := hsuccess
  by_contra herr
  obtain hne | ⟨a, f, st, v, hf, -, -⟩ := hrec herr
  · exact hne hfaults
  · obtain ⟨ag, hag, hphase⟩ := State.phaseOf_eq_some hf
    cases (hidle ag (List.mem_of_getElem? hag)).symm.trans hphase

end Sys2Proof.Machine
end

section
/-! PROOFS. The guard (40_guard.md): contention at every guard step (R67), the enter and exit windows (R28), and the
top and the bottom of `COUNT` (R68, R69). -/

namespace Sys2Proof.Machine

open Sys2Proof.Safety

/-! ### The guard steps, case by case -/

section GuardSteps

variable {a : Nat} {w : Word} {p q r : Phase} {s : State}

/-- Contention stops an increment step (R67). -/
theorem acquireStep_contended (h : s.contended a = true) : acquireStep a w p q r s = s.raiseContention a w := by
  obtain ⟨-, e⟩ | ⟨h', -⟩ | ⟨h', -⟩ := acquireStep_cases a w p q r s
  · exact e
  · rw [h] at h'; cases h'
  · rw [h] at h'; cases h'

/-- An increment step at the top of `COUNT` overflows (R68). -/
theorem acquireStep_overflow (h : s.contended a = false) (hc : s.count = s.cfg.maxCount) :
    acquireStep a w p q r s = ((s.setErr .guardOverflow).log a .incOverflow).setPhase a p := by
  obtain ⟨h', -⟩ | ⟨-, -, e⟩ | ⟨-, hc', -⟩ := acquireStep_cases a w p q r s
  · rw [h] at h'; cases h'
  · exact e
  · exact absurd hc hc'

/-- An increment step below the top of `COUNT` counts (R65). -/
theorem acquireStep_counted (h : s.contended a = false) (hc : s.count ≠ s.cfg.maxCount) :
    acquireStep a w p q r s = (s.counted a).setPhase a (if s.count = 0 then q else r) := by
  obtain ⟨h', -⟩ | ⟨-, hc', -⟩ | ⟨-, -, e⟩ := acquireStep_cases a w p q r s
  · rw [h] at h'; cases h'
  · exact absurd hc' hc
  · exact e

/-- Contention stops a decrement step (R67). -/
theorem releaseStep_contended (h : s.contended a = true) : releaseStep a w p q r s = s.raiseContention a w := by
  obtain ⟨-, e⟩ | ⟨h', -⟩ | ⟨h', -⟩ := releaseStep_cases a w p q r s
  · exact e
  · rw [h] at h'; cases h'
  · rw [h] at h'; cases h'

/-- A decrement step without a token underflows (R69). -/
theorem releaseStep_underflow (h : s.contended a = false) (hc : s.count = 0) :
    releaseStep a w p q r s = ((s.setErr .guardUnderflow).log a .decUnderflow).setPhase a p := by
  obtain ⟨h', -⟩ | ⟨-, -, e⟩ | ⟨-, hc', -⟩ := releaseStep_cases a w p q r s
  · rw [h] at h'; cases h'
  · exact e
  · exact absurd hc hc'

/-- A decrement step with a token counts (R66). -/
theorem releaseStep_uncounted (h : s.contended a = false) (hc : s.count ≠ 0) :
    releaseStep a w p q r s = (s.uncounted a).setPhase a (if s.count - 1 = 0 then q else r) := by
  obtain ⟨h', -⟩ | ⟨-, hc', -⟩ | ⟨-, -, e⟩ := releaseStep_cases a w p q r s
  · rw [h] at h'; cases h'
  · exact absurd hc' hc
  · exact e

end GuardSteps

/-! ### Contention -/

/-- A bracket is stopped by contention at its own guard steps, and where its body is (R67, R75). -/
theorem bracketStep_contended {β : Type} {a : Nat} {w : Word} {s : State} {wrap : BracketPc β → Phase} {first : β}
    {bodyStep : β → State → State} {counts : β → Bool} (h : s.contended a = true)
    (hbody : ∀ p, counts p = true → bodyStep p s = s.raiseContention a w) {pc : BracketPc β}
    (hpc : bracketCounts counts pc = true) :
    bracketStep a w wrap first bodyStep pc s = s.raiseContention a w := by
  cases pc with
  | inc => exact acquireStep_contended h
  | dec => exact releaseStep_contended h
  | body p => exact hbody p hpc
  | enter | exit | respond => cases hpc

/-- A bit of a byte command is stopped by contention at its own guard steps (R67, R80). -/
theorem nestedStep_contended {σ : Type} {a : Nat} {w : Word} {s : State} {wrap : NestedPc σ → Phase} {first : σ}
    {slotStep : σ → State → State} {ovf next : Phase} (h : s.contended a = true) {pc : NestedPc σ}
    (hpc : nestedCounts pc = true) :
    nestedStep a w wrap first slotStep ovf next pc s = s.raiseContention a w := by
  cases pc with
  | inc => exact acquireStep_contended h
  | dec => exact releaseStep_contended h
  | enter | slot | exit | ibd => cases hpc

/-- A position whose next step counts is stopped by contention. -/
theorem flightStep_contended {a : Nat} {f : Flight} {s : State} (hf : flightCounts f = true)
    (h : s.contended a = true) : flightStep a f s = s.raiseContention a f.instr.word := by
  cases f with
  | acquire pc =>
    cases pc with
    | inc => exact acquireStep_contended h
    | enter | respond => cases hf
  | release pc =>
    cases pc with
    | dec => exact releaseStep_contended h
    | exit | respond => cases hf
  | reset | writeBit | readBit => exact bracketStep_contended h nofun hf
  | writeByte | readByte => exact bracketStep_contended h (fun _ => nestedStep_contended h) hf

/-- What contention changes, written out (R67, R101). -/
theorem raiseContention_eq (s : State) (w : Word) :
    s.raiseContention s.active w = { s with
      hist := histWith s [.fault .guardContention]
      faults := s.faults ++ [recordOf s w .guardContention]
      agents := s.agents.modify s.active (fun ag => { ag with phase := .faulted, seq := ag.seq + 1 }) } := rfl

/-- The commands with guard steps start with one. -/
theorem exists_startOf_of_guarded {i : Instr} (h : guarded i = true) :
    ∃ f, startOf i = some f ∧ f.instr = i ∧ flightCounts f = true := by
  cases i with
  | acquire | release | reset | writeBit | readBit | writeByte | readByte => exact ⟨_, rfl, rfl, rfl⟩
  | readErr | crc8Step | crc8Compute | crc8CheckRom | crc8CheckScratchpad => cases h

/-- Settles O31: the first step is a guard step, which contention stops. -/
theorem contentionStopsTheNewcomer : Obligations.ContentionStopsTheNewcomer := by
  intro s i o hguarded hidle ho hne
  obtain ⟨f, hstart, rfl, hcounts⟩ := exists_startOf_of_guarded hguarded
  rw [exec_start hstart hidle, flightStep_contended hcounts (State.contended_eq_true.mpr ⟨o, ho, hne⟩),
    raiseContention_eq]

/-- Settles O32: the next step is a guard step, which contention stops. -/
theorem contentionStopsAtEveryGuardStep : Obligations.ContentionStopsAtEveryGuardStep := by
  intro s f o hf hcounts ho hne
  rw [exec_continue hf, flightStep_contended hcounts (State.contended_eq_true.mpr ⟨o, ho, hne⟩), raiseContention_eq]

/-! ### A command on its way -/

/-- `s` with the active agent at phase `p` and the events `kinds` of its command in `HIST`. -/
def State.midway (s : State) (kinds : List EventKind) (p : Phase) : State :=
  { s with hist := histWith s kinds, agents := s.agents.modify s.active (fun ag => { ag with phase := p }) }

/-- `s` after the active agent's command with word `w` has responded, with the events `kinds` before its response. -/
def State.answered (s : State) (w : Word) (kinds : List EventKind) (st : Status) (v : Byte) : State :=
  { s with
    hist := histWith s (kinds ++ [.respond st v])
    faults := s.faults ++ (st.faultKind.map (recordOf s w)).toList
    agents := agentsAfter s st v }

/-- The active agent is there. -/
def Present (s : State) : Prop := ∃ p, s.phaseOf s.active = some p

/-- The state after a draw, with one equation for both sources of it (R35; log 5). -/
theorem State.useDraw_eq (s : State) : s.useDraw = { s with
    draws := s.draws.tail, drawCount := if s.draws = [] then s.drawCount + 1 else s.drawCount } := by
  unfold State.useDraw
  split <;> simp [*]

section Midway

variable {s : State} {ks : List EventKind} {p q : Phase}

@[simp] theorem State.midway_cfg : (s.midway ks p).cfg = s.cfg := rfl
@[simp] theorem State.midway_count : (s.midway ks p).count = s.count := rfl
@[simp] theorem State.midway_region : (s.midway ks p).region = s.region := rfl
@[simp] theorem State.midway_owner : (s.midway ks p).owner = s.owner := rfl
@[simp] theorem State.midway_active : (s.midway ks p).active = s.active := rfl
@[simp] theorem State.midway_contended (a : Nat) : (s.midway ks p).contended a = s.contended a := rfl
@[simp] theorem State.midway_level : (s.midway ks p).level = s.level := rfl
@[simp] theorem State.midway_lineDrive : (s.midway ks p).lineDrive = s.lineDrive := rfl

/-- The active agent is at the phase it is put at. -/
theorem State.midway_phaseOf (h : Present s) : (s.midway ks p).phaseOf s.active = some p := by
  obtain ⟨q, hq⟩ := h
  exact State.phaseOf_setPhase_self p hq

/-- The command keeps its position in the issue order. -/
@[simp] theorem State.midway_seqOf : (s.midway ks p).seqOf s.active = s.seqOf s.active :=
  State.seqOf_setPhase s s.active s.active p

/-- A state is on its way from the phase it is at. -/
theorem State.midway_of_phaseOf (h : s.phaseOf s.active = some p) : s.midway [] p = s := by
  obtain ⟨ag, hag, hphase⟩ := State.phaseOf_eq_some h
  have hagents : s.agents.modify s.active (fun ag => { ag with phase := p }) = s.agents := modify_eq_self fun g hg => by
    obtain rfl := Option.some.inj (hag.symm.trans hg)
    rw [← hphase]
  simp only [State.midway, histWith, List.map_nil, List.append_nil, hagents]

/-- One more event, and the phase after it. -/
theorem midway_log (k : EventKind) :
    ((s.midway ks p).log s.active k).setPhase s.active q = s.midway (ks ++ [k]) q := by
  rw [State.log, State.midway_seqOf]
  simp only [State.setPhase, State.modifyAgent, State.midway, modify_phase_phase, histWith, List.map_append,
    List.map_cons, List.map_nil, List.append_assoc]

/-- `LineDriveLow` on the way. -/
theorem midway_lineDriveLow : ((s.midway ks p).lineDriveLow s.active).setPhase s.active q =
    ({ s with lineDrive := .driven } : State).midway (ks ++ [.driveLow]) q :=
  midway_log (s := { s with lineDrive := .driven }) _

/-- `LineRelease` on the way. -/
theorem midway_lineRelease : ((s.midway ks p).lineRelease s.active).setPhase s.active q =
    ({ s with lineDrive := .released } : State).midway (ks ++ [.lineRelease]) q :=
  midway_log (s := { s with lineDrive := .released }) _

/-- A sample of the released line on the way. -/
theorem midway_sample (h : s.lineDrive = .released) : ((s.midway ks p).sample s.active).setPhase s.active q =
    s.useDraw.midway (ks ++ [.sample s.drawLevel]) q := by
  have hdraw : (s.midway ks p).useDraw = s.useDraw.midway ks p := by
    simp only [State.useDraw_eq]
    rfl
  have hlog := midway_log (s := s.useDraw) (ks := ks) (p := p) (q := q) (.sample s.drawLevel)
  rw [State.sample_eq, State.midway_lineDrive, if_pos h, State.midway_level, State.level_released h, hdraw]
  simpa using hlog

/-- A token taken on the way. -/
theorem midway_counted : ((s.midway ks p).counted s.active).setPhase s.active q =
    ({ s with count := s.count + 1, owner := if s.count = 0 then some s.active else s.owner } : State).midway
      (ks ++ [.inc s.count]) q :=
  midway_log (s := { s with count := s.count + 1, owner := if s.count = 0 then some s.active else s.owner }) _

/-- A token given back on the way. -/
theorem midway_uncounted : ((s.midway ks p).uncounted s.active).setPhase s.active q =
    ({ s with count := s.count - 1 } : State).midway (ks ++ [.dec (s.count - 1)]) q :=
  midway_log (s := { s with count := s.count - 1 }) _

/-- The enter step on the way. -/
theorem midway_guardEnter : ((s.midway ks p).guardEnter s.active).setPhase s.active q =
    ({ s with region := true } : State).midway (ks ++ [.enter]) q :=
  midway_log (s := { s with region := true }) _

/-- The exit step on the way. -/
theorem midway_guardExit : ((s.midway ks p).guardExit s.active).setPhase s.active q =
    ({ s with region := false, owner := none } : State).midway (ks ++ [.exit]) q :=
  midway_log (s := { s with region := false, owner := none }) _

/-- A status error found on the way. -/
theorem midway_setErr (st : Status) (k : EventKind) :
    (((s.midway ks p).setErr st).log s.active k).setPhase s.active q =
      ({ s with err := s.err ||| st.errBit } : State).midway (ks ++ [k]) q :=
  midway_log (s := { s with err := s.err ||| st.errBit }) k

/-- The response ends the way. -/
theorem midway_respond (w : Word) (st : Status) (v : Byte) :
    (s.midway ks p).respond s.active w st v = s.answered w ks st v := by
  rw [State.respond_eq, State.midway_seqOf]
  simp only [State.midway, State.answered, modify_phase_responded, agentsAfter, histWith, List.map_append,
    List.map_cons, List.map_nil, List.append_assoc]
  rfl

end Midway

/-! ### Overflow and underflow -/

/-- The guard is open where there is no contention (R67). -/
theorem contended_of_guardOpen {s : State} (h : GuardOpen s) : s.contended s.active = false :=
  State.contended_eq_false.mpr h

/-- Where a command that acquires goes from its first step: to its response after an overflow, and, by its enter step or
without it, onward (R65, R72, R75). -/
theorem exists_acquireStart {i : Instr} (h : acquires i = true) :
    ∃ f ovf enter onward : Flight, startOf i = some f ∧ ovf.instr = i ∧ enter.instr = i ∧
      (∀ a s, flightStep a f s = acquireStep a i.word (.running ovf) (.running enter) (.running onward) s) ∧
      (∀ a s, flightStep a ovf s = s.respond a i.word .guardOverflow 0x00) ∧
      (∀ a s, flightStep a enter s = (s.guardEnter a).setPhase a (.running onward)) := by
  cases i with
  | acquire =>
    exact ⟨_, .acquire (.respond .guardOverflow), .acquire .enter, .acquire (.respond .ok), rfl, rfl, rfl,
      fun _ _ => rfl, fun _ _ => rfl, fun _ _ => rfl⟩
  | reset =>
    exact ⟨_, .reset (.respond .guardOverflow 0x00), .reset .enter, .reset (.body .low), rfl, rfl, rfl,
      fun _ _ => rfl, fun _ _ => rfl, fun _ _ => rfl⟩
  | writeBit bit =>
    exact ⟨_, .writeBit bit (.respond .guardOverflow 0x00), .writeBit bit .enter, .writeBit bit (.body .low), rfl, rfl,
      rfl, fun _ _ => rfl, fun _ _ => rfl, fun _ _ => rfl⟩
  | readBit =>
    exact ⟨_, .readBit (.respond .guardOverflow 0x00), .readBit .enter, .readBit (.body ⟨0, .low⟩), rfl, rfl, rfl,
      fun _ _ => rfl, fun _ _ => rfl, fun _ _ => rfl⟩
  | writeByte byte =>
    exact ⟨_, .writeByte byte (.respond .guardOverflow 0x00), .writeByte byte .enter, .writeByte byte (.body ⟨0, .inc⟩),
      rfl, rfl, rfl, fun _ _ => rfl, fun _ _ => rfl, fun _ _ => rfl⟩
  | readByte =>
    exact ⟨_, .readByte (.respond .guardOverflow 0x00), .readByte .enter, .readByte (.body ⟨0, 0x00, 0, .inc⟩), rfl,
      rfl, rfl, fun _ _ => rfl, fun _ _ => rfl, fun _ _ => rfl⟩
  | release | readErr | crc8Step | crc8Compute | crc8CheckRom | crc8CheckScratchpad => cases h

/-- Settles O30: the first step overflows, and the second responds. -/
theorem acquireOverflows : Obligations.AcquireOverflows := by
  intro s i hacquires hidle hopen hmax
  obtain ⟨f, ovf, enter, onward, hstart, rfl, -, hfirst, hrespond, -⟩ := exists_acquireStart hacquires
  let b : State := { s with err := s.err ||| 0x08 }
  have hstep : flightStep s.active f s = b.midway [.incOverflow] (.running ovf) := by
    rw [hfirst, acquireStep_overflow (contended_of_guardOpen hopen) hmax, ← State.midway_of_phaseOf hidle]
    exact midway_setErr .guardOverflow .incOverflow
  refine ⟨b.midway [.incOverflow] (.running ovf), by rw [exec_start hstart hidle, hstep], ?_⟩
  rw [exec_continue (State.midway_phaseOf (s := b) ⟨_, hidle⟩), State.midway_active, hrespond, midway_respond]
  rfl

/-- Settles O29: the first step underflows, and the second responds. -/
theorem releaseUnderflows : Obligations.ReleaseUnderflows := by
  intro s hidle hopen hzero
  let f : Flight := .release (.respond .guardUnderflow)
  let b : State := { s with err := s.err ||| 0x04 }
  have hstep : flightStep s.active (.release .dec) s = b.midway [.decUnderflow] (.running f) := by
    rw [flightStep, releaseCommandStep, releaseStep_underflow (contended_of_guardOpen hopen) hzero,
      ← State.midway_of_phaseOf hidle]
    exact midway_setErr .guardUnderflow .decUnderflow
  refine ⟨b.midway [.decUnderflow] (.running f), by rw [exec_start rfl hidle, hstep], ?_⟩
  refine (exec_continue (f := f) (State.midway_phaseOf (s := b) ⟨_, hidle⟩)).trans ?_
  rw [State.midway_active, flightStep, releaseCommandStep, midway_respond]
  rfl

/-! ### The enter and exit windows -/

/-- Settles O33: the first step counts, and goes to the enter step. -/
theorem enterWindowIsOpenForOneStep : Obligations.EnterWindowIsOpenForOneStep := by
  intro s i hacquires hidle ho hzero hregion hmax
  obtain ⟨f, ovf, enter, onward, hstart, -, rfl, hfirst, -, henter⟩ := exists_acquireStart hacquires
  have hstep : flightStep s.active f s = (s.counted s.active).setPhase s.active (.running enter) := by
    rw [hfirst, acquireStep_counted (State.contended_eq_false.mpr (.inl ho)) (hzero ▸ hmax.symm), if_pos hzero]
  have hphase : ((s.counted s.active).setPhase s.active (.running enter)).phaseOf s.active = some (.running enter) :=
    State.phaseOf_setPhase_self (s := s.counted s.active) _ hidle
  refine ⟨_, _, by rw [exec_start hstart hidle, hstep], ?_, ?_, ?_, exec_continue hphase, ?_, ?_, ?_⟩
  all_goals simp [henter, hzero, hregion]

/-- A bracket's decrement step, its own or one of its body, and the exit step it goes to (R66, R75). -/
theorem bracketStep_exitStep {β : Type} {w : Word} {wrap : BracketPc β → Phase} {first : β}
    {bodyStep : Nat → β → State → State} {releases : β → Bool}
    (hbody : ∀ p, releases p = true → ∃ (p' : β) (udf onward after : Phase),
      (∀ a s, bodyStep a p s = releaseStep a w udf (wrap (.body p')) onward s) ∧
      (∀ a s, bodyStep a p' s = (s.guardExit a).setPhase a after))
    {pc : BracketPc β} (h : bracketReleases releases pc = true) :
    ∃ (pc' : BracketPc β) (udf onward after : Phase),
      (∀ a s, bracketStep a w wrap first (bodyStep a) pc s = releaseStep a w udf (wrap pc') onward s) ∧
      (∀ a s, bracketStep a w wrap first (bodyStep a) pc' s = (s.guardExit a).setPhase a after) := by
  cases pc with
  | dec st v => exact ⟨.exit st v, _, _, _, fun _ _ => rfl, fun _ _ => rfl⟩
  | body p =>
    obtain ⟨p', udf, onward, after, hdec, hexit⟩ := hbody p h
    exact ⟨.body p', udf, onward, after, hdec, hexit⟩
  | inc | enter | exit | respond => cases h

/-- Where a command goes from a decrement step: to its exit step, when no token is left (R66). -/
theorem exists_exitStep {f : Flight} (h : flightReleases f = true) :
    ∃ (exit : Flight) (udf onward after : Phase), exit.instr = f.instr ∧
      (∀ a s, flightStep a f s = releaseStep a f.instr.word udf (.running exit) onward s) ∧
      (∀ a s, flightStep a exit s = (s.guardExit a).setPhase a after) := by
  cases f with
  | acquire => cases h
  | release pc =>
    cases pc with
    | dec => exact ⟨.release .exit, _, _, _, rfl, fun _ _ => rfl, fun _ _ => rfl⟩
    | exit | respond => cases h
  | reset pc =>
    obtain ⟨pc', udf, onward, after, hsteps⟩ := bracketStep_exitStep (wrap := resetPhase) (bodyStep := resetBodyStep)
      (releases := fun _ => false) nofun h
    exact ⟨.reset pc', udf, onward, after, rfl, hsteps⟩
  | writeBit bit pc =>
    obtain ⟨pc', udf, onward, after, hsteps⟩ := bracketStep_exitStep (wrap := writeBitPhase bit)
      (bodyStep := fun a => writeSlotStep a bit (fun p => writeBitPhase bit (.body p))
        (writeBitPhase bit (.dec .ok 0x00)))
      (releases := fun _ => false) nofun h
    exact ⟨.writeBit bit pc', udf, onward, after, rfl, hsteps⟩
  | readBit pc =>
    obtain ⟨pc', udf, onward, after, hsteps⟩ := bracketStep_exitStep (wrap := readBitPhase)
      (bodyStep := readBitBodyStep) (releases := fun _ => false) nofun h
    exact ⟨.readBit pc', udf, onward, after, rfl, hsteps⟩
  | writeByte byte pc =>
    obtain ⟨pc', udf, onward, after, hsteps⟩ := bracketStep_exitStep (wrap := writeBytePhase byte)
      (bodyStep := fun a => writeByteBodyStep a byte) (fun ⟨i, p⟩ hp => by
        cases p with
        | dec => exact ⟨⟨i, .exit⟩, _, _, _, fun _ _ => rfl, fun _ _ => rfl⟩
        | inc | enter | slot | exit | ibd => cases hp) h
    exact ⟨.writeByte byte pc', udf, onward, after, rfl, hsteps⟩
  | readByte pc =>
    obtain ⟨pc', udf, onward, after, hsteps⟩ := bracketStep_exitStep (wrap := readBytePhase)
      (bodyStep := readByteBodyStep) (fun ⟨i, v, b, p⟩ hp => by
        cases p with
        | dec => exact ⟨⟨i, v, b, .exit⟩, _, _, _, fun _ _ => rfl, fun _ _ => rfl⟩
        | inc | enter | slot | exit | ibd => cases hp) h
    exact ⟨.readByte pc', udf, onward, after, rfl, hsteps⟩

/-- Settles O34: the first step gives back the last token, and goes to the exit step. -/
theorem exitWindowIsOpenForOneStep : Obligations.ExitWindowIsOpenForOneStep := by
  intro s i hi ho hone hregion
  obtain ⟨f, hreleases, rfl, hexec, hpresent⟩ : ∃ f, flightReleases f = true ∧ f.instr = i ∧
      exec i s = .next (flightStep s.active f s) ∧ Present s := by
    obtain ⟨rfl, hidle⟩ | ⟨f, hf, hreleases, rfl⟩ := hi
    · exact ⟨.release .dec, rfl, rfl, exec_start rfl hidle, _, hidle⟩
    · exact ⟨f, hreleases, rfl, exec_continue hf, _, hf⟩
  obtain ⟨exit, udf, onward, after, hinstr, hfirst, hexit⟩ := exists_exitStep hreleases
  obtain ⟨p, hp⟩ := hpresent
  have hstep : flightStep s.active f s = (s.uncounted s.active).setPhase s.active (.running exit) := by
    rw [hfirst, releaseStep_uncounted (State.contended_eq_false.mpr (.inr ho)) (by omega), if_pos (by omega)]
  have hphase : ((s.uncounted s.active).setPhase s.active (.running exit)).phaseOf s.active = some (.running exit) :=
    State.phaseOf_setPhase_self (s := s.uncounted s.active) _ hp
  refine ⟨_, _, by rw [hexec, hstep], ?_, ?_, ?_, hinstr ▸ exec_continue hphase, ?_, ?_, ?_⟩
  all_goals simp [hexit, hone, hregion, ho]

end Sys2Proof.Machine
end

section
/-! PROOFS. Running one command alone (R10, R46). `Goes` says that a command runs from one position to another with
given events; runs are put together step by step (`Goes.trans`), repeated (`Goes.loop`) and brought to the response
(`Goes.run`). -/

namespace Sys2Proof.Machine

open Sys2Proof.Safety

/-! ### Chains of steps -/

section Chains

variable {i : Instr} {s t : State}

/-- The first of several steps. -/
theorem runAlone_succ {n : Nat} (h : runAlone (n + 1) i s = .next t) :
    ∃ s1, exec i s = .next s1 ∧ runAlone n i s1 = .next t := by
  rw [runAlone] at h
  cases hexec : exec i s with
  | next s1 => rw [hexec] at h; exact ⟨s1, rfl, h⟩
  | fault | refused => rw [hexec] at h; cases h

/-- Steps after steps. -/
theorem runAlone_add {m n : Nat} (h : runAlone m i s = .next t) : runAlone (m + n) i s = runAlone n i t := by
  induction m generalizing s with
  | zero => cases h; rw [Nat.zero_add]
  | succ m ih =>
    obtain ⟨s1, hexec, hrun⟩ := runAlone_succ h
    rw [Nat.succ_add, runAlone, hexec]
    exact ih hrun

/-- One step. -/
theorem runAlone_one (h : exec i s = .next t) : runAlone 1 i s = .next t := by
  rw [runAlone, h]; rfl

end Chains

/-! ### A command goes from one position to another -/

/-- At phase `p` of `s`, the next step of command `i` is `take`. -/
def StepsAs (i : Instr) (s : State) (p : Phase) (take : State → State) : Prop :=
  ∀ before, exec i (s.midway before p) = .next (take (s.midway before p))

/-- With no step of another agent between, command `i` goes from phase `p` in `s` to phase `q` in `t`, with the events
`kinds`. -/
def Goes (i : Instr) (s : State) (p : Phase) (kinds : List EventKind) (t : State) (q : Phase) : Prop :=
  ∀ before, runAlone kinds.length i (s.midway before p) = .next (t.midway (before ++ kinds) q)

section Goes

variable {i : Instr} {s t u : State} {p q r : Phase} {ks ls : List EventKind} {k : EventKind} {f : Flight}

/-- The next step of a command in flight. -/
theorem stepsAs_running (hs : Present s) : StepsAs f.instr s (.running f) (flightStep s.active f) :=
  fun _ => exec_continue (State.midway_phaseOf hs)

/-- The first step of a command of several steps. -/
theorem stepsAs_idle (hs : Present s) (hf : startOf i = some f) : StepsAs i s .idle (flightStep s.active f) :=
  fun _ => exec_start hf (State.midway_phaseOf hs)

/-- One step. -/
theorem StepsAs.goes {take : State → State} (h : StepsAs i s p take)
    (htake : ∀ before, take (s.midway before p) = t.midway (before ++ [k]) q) : Goes i s p [k] t q :=
  fun before => runAlone_one ((h before).trans (congrArg _ (htake before)))

theorem Goes.refl : Goes i s p [] s p := fun before => by rw [List.append_nil]; rfl

theorem Goes.trans (h : Goes i s p ks t q) (h' : Goes i t q ls u r) : Goes i s p (ks ++ ls) u r := fun before => by
  rw [List.length_append, runAlone_add (h before), h' (before ++ ks), List.append_assoc]

/-- One step, and the rest. -/
theorem Goes.cons (h : Goes i s p [k] t q) (h' : Goes i t q ls u r) : Goes i s p (k :: ls) u r := h.trans h'

/-- Rounds of a loop: round `m` goes from the `m`-th position to the next one. -/
theorem Goes.loop {n : Nat} {S : Nat → State} {P : Nat → Phase} {K : Nat → List EventKind}
    (h : ∀ m, m < n → Goes i (S m) (P m) (K m) (S (m + 1)) (P (m + 1))) :
    Goes i (S 0) (P 0) ((List.range n).flatMap K) (S n) (P n) := by
  induction n with
  | zero => exact .refl
  | succ n ih =>
    rw [List.range_succ, List.flatMap_append]
    refine (ih fun m hm => h m (Nat.lt_succ_of_lt hm)).trans ?_
    simpa using h n (Nat.lt_succ_self n)

/-- A run to the response. -/
theorem Goes.run {w : Word} {st : Status} {v : Byte} (hs : Idle s) (hgoes : Goes i s .idle ks t p)
    (hrespond : StepsAs i t p (fun u => u.respond t.active w st v)) :
    runAlone (ks.length + 1) i s = .next (t.answered w ks st v) := by
  have hrun : runAlone ks.length i s = .next (t.midway ks p) := by
    simpa [State.midway_of_phaseOf hs] using hgoes []
  rw [runAlone_add hrun, runAlone_one (hrespond ks)]
  exact congrArg _ (midway_respond w st v)

end Goes

/-! ### One event on the way -/

section Steps

variable {i : Instr} {s : State} {p q : Phase}

theorem goes_driveLow (h : StepsAs i s p (fun u => (u.lineDriveLow s.active).setPhase s.active q)) :
    Goes i s p [.driveLow] { s with lineDrive := .driven } q := h.goes fun _ => midway_lineDriveLow

theorem goes_lineRelease (h : StepsAs i s p (fun u => (u.lineRelease s.active).setPhase s.active q)) :
    Goes i s p [.lineRelease] { s with lineDrive := .released } q := h.goes fun _ => midway_lineRelease

theorem goes_delay {name : DelayName} (h : StepsAs i s p (fun u => (u.delay s.active name).setPhase s.active q)) :
    Goes i s p [.delay name] s q := h.goes fun _ => midway_log (.delay name)

/-- A sample of the released line; the position after it may depend on the level. -/
theorem goes_sample {next : Bit → Phase} (hline : s.lineDrive = .released)
    (h : StepsAs i s p (fun u => (u.sample s.active).setPhase s.active (next u.level))) :
    Goes i s p [.sample s.drawLevel] s.useDraw (next s.drawLevel) := h.goes fun before => by
  rw [State.midway_level, State.level_released hline, midway_sample hline]

theorem goes_enter (h : StepsAs i s p (fun u => (u.guardEnter s.active).setPhase s.active q)) :
    Goes i s p [.enter] { s with region := true } q := h.goes fun _ => midway_guardEnter

theorem goes_exit (h : StepsAs i s p (fun u => (u.guardExit s.active).setPhase s.active q)) :
    Goes i s p [.exit] { s with region := false, owner := none } q := h.goes fun _ => midway_guardExit

end Steps

/-! ### The guard on the way -/

/-- `s` with a token taken, and the region entered if it is the first one (R65). -/
def State.opened (s : State) : State :=
  { s with
    count := s.count + 1
    region := if s.count = 0 then true else s.region
    owner := if s.count = 0 then some s.active else s.owner }

/-- `s` with a token given back, and the region left if it was the last one (R66). -/
def State.closed (s : State) : State :=
  { s with
    count := s.count - 1
    region := if s.count = 1 then false else s.region
    owner := if s.count = 1 then none else s.owner }

/-- The events of taking a token at `COUNT` = `k` (R65). -/
def openEvents (k : Nat) : List EventKind := if k = 0 then [.inc 0, .enter] else [.inc k]

/-- The events of giving back a token to `COUNT` = `k` (R66). -/
def closeEvents (k : Nat) : List EventKind := if k = 0 then [.dec 0, .exit] else [.dec k]

section Guard

variable {i : Instr} {s : State} {p onward : Phase} {w : Word}

/-- An increment step below the top of `COUNT`, on the way. -/
theorem acquireStep_midway {ovf enter : Phase} (hopen : GuardOpen s) (hmax : s.count ≠ s.cfg.maxCount)
    (before : List EventKind) :
    acquireStep s.active w ovf enter onward (s.midway before p) =
      ({ s with count := s.count + 1, owner := if s.count = 0 then some s.active else s.owner } : State).midway
        (before ++ [.inc s.count]) (if s.count = 0 then enter else onward) := by
  have hopen' : (s.midway before p).contended s.active = false := contended_of_guardOpen hopen
  rw [acquireStep_counted hopen' hmax, State.midway_count, midway_counted]

/-- A decrement step with a token, on the way. -/
theorem releaseStep_midway {udf exit : Phase} (hopen : GuardOpen s) (hcount : s.count ≠ 0) (before : List EventKind) :
    releaseStep s.active w udf exit onward (s.midway before p) =
      ({ s with count := s.count - 1 } : State).midway (before ++ [.dec (s.count - 1)])
        (if s.count - 1 = 0 then exit else onward) := by
  have hopen' : (s.midway before p).contended s.active = false := contended_of_guardOpen hopen
  rw [releaseStep_uncounted hopen' hcount, State.midway_count, midway_uncounted]

/-- GuardAcquire (R65). -/
theorem goes_opened {ovf enter : Phase} (hs : Present s) (hopen : GuardOpen s) (hmax : s.count ≠ s.cfg.maxCount)
    (hinc : StepsAs i s p (acquireStep s.active w ovf enter onward))
    (henter : ∀ t : State, Present t → t.active = s.active →
      StepsAs i t enter (fun u => (u.guardEnter s.active).setPhase s.active onward)) :
    Goes i s p (openEvents s.count) s.opened onward := by
  have hcounted := hinc.goes (acquireStep_midway hopen hmax)
  unfold openEvents State.opened
  split <;> simp only [*, if_true, if_false] at hcounted ⊢
  · exact hcounted.cons (goes_enter (henter _ hs rfl))
  · exact hcounted

/-- GuardRelease (R66). -/
theorem goes_closed {udf exit : Phase} (hs : Present s) (hopen : GuardOpen s) (hcount : s.count ≠ 0)
    (hdec : StepsAs i s p (releaseStep s.active w udf exit onward))
    (hexit : ∀ t : State, Present t → t.active = s.active →
      StepsAs i t exit (fun u => (u.guardExit s.active).setPhase s.active onward)) :
    Goes i s p (closeEvents (s.count - 1)) s.closed onward := by
  have huncounted := hdec.goes (releaseStep_midway hopen hcount)
  have hone : s.count = 1 ↔ s.count - 1 = 0 := by omega
  unfold closeEvents State.closed
  simp only [hone]
  split <;> simp only [*, if_true, if_false] at huncounted ⊢
  · exact huncounted.cons (goes_exit (hexit _ hs rfl))
  · exact huncounted

end Guard

/-- A response with `OK` adds no record. -/
theorem State.answered_ok (s : State) (w : Word) (ks : List EventKind) (v : Byte) :
    s.answered w ks .ok v = { s with hist := histWith s (ks ++ [.respond .ok v]), agents := agentsAfter s .ok v } := by
  simp [State.answered, Status.faultKind]

/-! ### ACQUIRE and RELEASE -/

/-- An idle active agent is there. -/
theorem present_of_idle {s : State} (h : Idle s) : Present s := ⟨.idle, h⟩

/-- ACQUIRE's whole run (R72). -/
theorem runAlone_acquire {s : State} (hidle : Idle s) (hopen : GuardOpen s) (hmax : s.count ≠ s.cfg.maxCount) :
    runAlone ((openEvents s.count).length + 1) .acquire s =
      .next (s.opened.answered Instr.acquire.word (openEvents s.count) .ok 0x00) := by
  have hs := present_of_idle hidle
  have hgoes : Goes .acquire s .idle (openEvents s.count) s.opened (.running (.acquire (.respond .ok))) :=
    goes_opened hs hopen hmax (stepsAs_idle (f := .acquire .inc) hs rfl)
      fun t ht ha => ha ▸ stepsAs_running (f := .acquire .enter) ht
  exact hgoes.run hidle (stepsAs_running (f := .acquire (.respond .ok)) hs)

/-- RELEASE's whole run (R73). -/
theorem runAlone_release {s : State} (hidle : Idle s) (hopen : GuardOpen s) (hcount : s.count ≠ 0) :
    runAlone ((closeEvents (s.count - 1)).length + 1) .release s =
      .next (s.closed.answered Instr.release.word (closeEvents (s.count - 1)) .ok 0x00) := by
  have hs := present_of_idle hidle
  have hgoes : Goes .release s .idle (closeEvents (s.count - 1)) s.closed (.running (.release (.respond .ok))) :=
    goes_closed hs hopen hcount (stepsAs_idle (f := .release .dec) hs rfl)
      fun t ht ha => ha ▸ stepsAs_running (f := .release .exit) ht
  exact hgoes.run hidle (stepsAs_running (f := .release (.respond .ok)) hs)

/-- Settles O27: GuardAcquire, then the response. -/
theorem acquireTakesAToken : Obligations.AcquireTakesAToken := by
  intro s hidle hopen hmax
  have hlength : (openEvents s.count).length = if s.count = 0 then 2 else 1 := by unfold openEvents; split <;> rfl
  obtain ⟨s1, hexec, hrun⟩ := runAlone_succ (runAlone_acquire hidle hopen hmax)
  rw [hlength, State.answered_ok] at hrun
  refine ⟨s1, hexec, hrun.trans ?_⟩
  simp only [openEvents]
  rfl

/-- Settles O28: GuardRelease, then the response. -/
theorem releaseGivesBackAToken : Obligations.ReleaseGivesBackAToken := by
  intro s hidle hopen hcount
  have hone : s.count - 1 = 0 ↔ s.count = 1 := by omega
  have hlength : (closeEvents (s.count - 1)).length = if s.count = 1 then 2 else 1 := by
    unfold closeEvents; simp only [hone]; split <;> rfl
  obtain ⟨s1, hexec, hrun⟩ := runAlone_succ (runAlone_release hidle hopen hcount)
  rw [hlength, State.answered_ok] at hrun
  refine ⟨s1, hexec, hrun.trans ?_⟩
  simp only [closeEvents, hone]
  rfl

/-- ACQUIRE of one more token by the owner: two steps, neither of them the enter step (R70). -/
theorem exec_acquire_nested {s : State} (hidle : Idle s) (ho : s.owner = some s.active) (hcount : s.count ≠ 0)
    (hmax : s.count ≠ s.cfg.maxCount) :
    ∃ s1 s2, exec .acquire s = .next s1 ∧ exec .acquire s1 = .next s2 ∧ Idle s2 ∧ s2.active = s.active ∧
      s1.count = s.count + 1 ∧ s2.count = s.count + 1 ∧ s1.region = s.region ∧ s2.region = s.region ∧
      s1.owner = s.owner ∧ s2.owner = s.owner := by
  let s1 : State := (s.counted s.active).setPhase s.active (.running (.acquire (.respond .ok)))
  have hfirst : exec .acquire s = .next s1 := by
    rw [exec_start (f := .acquire .inc) rfl hidle, flightStep, acquireCommandStep,
      acquireStep_counted (contended_of_guardOpen (.inr ho)) hmax, if_neg hcount]
  have hphase : s1.phaseOf s1.active = some (.running (.acquire (.respond .ok))) :=
    State.phaseOf_setPhase_self (s := s.counted s.active) _ hidle
  exact ⟨s1, s1.respond s1.active Instr.acquire.word .ok 0x00, hfirst, exec_continue hphase,
    State.phaseOf_respond_self _ _ _ hphase, rfl, by simp [s1, hcount]⟩

/-- RELEASE of a token that is not the owner's last: two steps, neither of them the exit step (R70). -/
theorem exec_release_nested {s : State} (hidle : Idle s) (ho : s.owner = some s.active) (hcount : 1 < s.count) :
    ∃ s1 s2, exec .release s = .next s1 ∧ exec .release s1 = .next s2 ∧ s1.count = s.count - 1 ∧
      s2.count = s.count - 1 ∧ s1.region = s.region ∧ s2.region = s.region ∧ s1.owner = s.owner ∧
      s2.owner = s.owner := by
  let s1 : State := (s.uncounted s.active).setPhase s.active (.running (.release (.respond .ok)))
  have hfirst : exec .release s = .next s1 := by
    rw [exec_start (f := .release .dec) rfl hidle, flightStep, releaseCommandStep,
      releaseStep_uncounted (contended_of_guardOpen (.inr ho)) (by omega), if_neg (by omega)]
  have hphase : s1.phaseOf s1.active = some (.running (.release (.respond .ok))) :=
    State.phaseOf_setPhase_self (s := s.uncounted s.active) _ hidle
  exact ⟨s1, s1.respond s1.active Instr.release.word .ok 0x00, hfirst, exec_continue hphase, by simp [s1]⟩

/-- Settles O35: the two steps of ACQUIRE, and from there the two steps of RELEASE. -/
theorem reentrancyKeepsTheRegion : Obligations.ReentrancyKeepsTheRegion := by
  intro s hidle ho hcount hmax
  obtain ⟨s1, s2, h1, h2, hidle2, hactive, hcount1, hcount2, hregion1, hregion2, ho1, ho2⟩ :=
    exec_acquire_nested hidle ho hcount hmax
  obtain ⟨s3, s4, h3, h4, hcount3, hcount4, hregion3, hregion4, ho3, ho4⟩ :=
    exec_release_nested hidle2 (by rw [ho2, ho, hactive]) (by omega)
  exact ⟨s1, s2, s3, s4, h1, h2, h3, h4, hcount1, hcount2, by omega, by omega, hregion1, hregion2,
    hregion3.trans hregion2, hregion4.trans hregion2, ho1, ho2, ho3.trans ho2, ho4.trans ho2⟩

end Sys2Proof.Machine
end

section
/-! PROOFS. Whole runs of the bus commands (41_bus.md): the time slots (R76, R77), the bracket (R75), the byte commands
(R80, R81, R83) and RESET (R78). -/

namespace Sys2Proof.Machine

open Sys2Proof.Safety

/-! ### Draws -/

/-- A draw changes the draws only. -/
theorem useDraw_lineDrive (s : State) (d : Drive) :
    ({ s with lineDrive := d } : State).useDraw = { s.useDraw with lineDrive := d } := by
  simp only [State.useDraw_eq]

theorem useDraw_opened (s : State) : s.opened.useDraw = s.useDraw.opened := by
  simp only [State.useDraw_eq, State.opened]

/-- Draws do not depend on the bracket. -/
theorem iterate_useDraw_opened (s : State) (n : Nat) : State.useDraw^[n] s.opened = (State.useDraw^[n] s).opened :=
  (Function.Commute.iterate_left useDraw_opened n s)

/-- Draws change the draws only. -/
theorem iterate_useDraw_eq (s : State) (n : Nat) : State.useDraw^[n] s = { s with
    draws := (State.useDraw^[n] s).draws, drawCount := (State.useDraw^[n] s).drawCount } := by
  induction n with
  | zero => rfl
  | succ n ih => rw [Function.iterate_succ_apply', State.useDraw_eq, ih]

/-- The level of a sample in the bracket is that of the sample without it. -/
theorem levelAt_opened (s : State) (n : Nat) : levelAt s.opened n = levelAt s n := by
  rw [levelAt, iterate_useDraw_opened]; rfl

/-- `s` after `n` draws, with the line released. -/
def State.drawn (s : State) (n : Nat) : State := { State.useDraw^[n] s with lineDrive := .released }

@[simp] theorem State.drawn_lineDrive (s : State) (n : Nat) : (s.drawn n).lineDrive = .released := rfl

/-- The next level after `n` draws. -/
theorem drawLevel_drawn (s : State) (n : Nat) : (s.drawn n).drawLevel = levelAt s n := rfl

/-- One more draw. -/
theorem useDraw_drawn (s : State) (n : Nat) : (s.drawn n).useDraw = s.drawn (n + 1) := by
  rw [State.drawn, State.drawn, useDraw_lineDrive, Function.iterate_succ_apply']

theorem State.drawn_eq (s : State) (n : Nat) : s.drawn n = { s with
    lineDrive := .released
    draws := (State.useDraw^[n] s).draws
    drawCount := (State.useDraw^[n] s).drawCount } := by
  rw [State.drawn, iterate_useDraw_eq]

/-- The active agent is there after any draws. -/
theorem present_drawn {s : State} (h : Present s) (n : Nat) : Present (s.drawn n) := by
  rw [State.drawn_eq]; exact h

/-! ### The time slots -/

section Slots

variable {i : Instr} {s : State}

/-- `WriteSlot(bit)` (R76). -/
theorem goes_writeSlot {bit : Bit} {wrap : WriteSlotPc → Phase} {done : Phase} (hs : Present s)
    (hwrap : ∀ (pc : WriteSlotPc) (t : State), Present t →
      StepsAs i t (wrap pc) (writeSlotStep t.active bit wrap done pc)) :
    Goes i s (wrap .low) (writeSlotEvents bit) { s with lineDrive := .released } done := by
  have hlow := goes_driveLow (hwrap .low s hs)
  have hhold := goes_delay (hwrap .hold { s with lineDrive := .driven } hs)
  have hup := goes_lineRelease (hwrap .up { s with lineDrive := .driven } hs)
  have hrest := goes_delay (hwrap .rest { s with lineDrive := .released } hs)
  unfold writeSlotEvents
  split <;> simp only [*, if_true, if_false] at hhold hup
  · exact hlow.cons (hhold.cons hup)
  · exact hlow.cons (hhold.cons (hup.cons hrest))

/-- `ReadSlot()` (R77). -/
theorem goes_readSlot {b : Bit} {wrap : Bit → ReadSlotPc → Phase} {done : Bit → Phase} (hs : Present s)
    (hwrap : ∀ (b : Bit) (pc : ReadSlotPc) (t : State), Present t →
      StepsAs i t (wrap b pc) (readSlotStep t.active b wrap done pc)) :
    Goes i s (wrap b .low) (readSlotEvents s.drawLevel) { s.useDraw with lineDrive := .released }
      (done s.drawLevel) := by
  have hlow := goes_driveLow (hwrap b .low s hs)
  have hhold := goes_delay (hwrap b .hold { s with lineDrive := .driven } hs)
  have hup := goes_lineRelease (hwrap b .up { s with lineDrive := .driven } hs)
  have hwait := goes_delay (hwrap b .wait { s with lineDrive := .released } hs)
  have hsample := goes_sample (next := fun l => wrap l .rest) rfl (hwrap b .sample { s with lineDrive := .released } hs)
  have hs' : Present { s.useDraw with lineDrive := .released } := present_drawn hs 1
  have hrest := goes_delay (hwrap s.drawLevel .rest { s.useDraw with lineDrive := .released } hs')
  rw [useDraw_lineDrive] at hsample
  exact hlow.cons (hhold.cons (hup.cons (hwait.cons (hsample.cons hrest))))

end Slots

/-! ### The bracket -/

/-- `t` is `s` in its bracket, but for the line, `ERR` and the draws (R75). -/
structure InBracket (s t : State) : Prop where
  cfg : t.cfg = s.cfg
  active : t.active = s.active
  agents : t.agents = s.agents
  hist : t.hist = s.hist
  faults : t.faults = s.faults
  count : t.count = s.count + 1
  region : t.region = s.opened.region
  owner : t.owner = s.opened.owner

theorem inBracket_drawn (s : State) (n : Nat) : InBracket s (s.opened.drawn n) := by
  rw [State.drawn_eq]; constructor <;> rfl

theorem InBracket.present {s t : State} (h : InBracket s t) (hs : Present s) : Present t := by
  obtain ⟨p, hp⟩ := hs
  exact ⟨p, by rw [State.phaseOf_congr h.agents, h.active, hp]⟩

/-- The guard is open inside a bracket that was entered. -/
theorem InBracket.guardOpen {s t : State} (h : InBracket s t) (hs : GuardOpen s) : GuardOpen t := by
  rw [GuardOpen, h.owner, h.active, State.opened]
  by_cases h0 : s.count = 0
  · simp [h0]
  · simpa [GuardOpen, h0] using hs

/-- The registers of the guard after the bracket are those before it. -/
theorem InBracket.closed_eq {s t : State} (h : InBracket s t) : t.closed = { t with
    count := s.count
    region := if s.count = 0 then false else s.region
    owner := if s.count = 0 then none else s.owner } := by
  simp only [State.closed, h.count, h.region, h.owner, State.opened]
  by_cases h0 : s.count = 0 <;> simp [h0]

/-- The events of a bracket, taken apart (R75). -/
theorem bracketEvents_eq (k : Nat) (body : List EventKind) :
    bracketEvents k body = openEvents k ++ body ++ closeEvents k := by
  unfold bracketEvents openEvents closeEvents; split <;> rfl

section Bracket

variable {i : Instr} {s t : State} {β : Type} {w : Word} {wrap : BracketPc β → Phase} {first : β}
  {bodyStep : Nat → β → State → State} {body : List EventKind} {st : Status} {v : Byte}

/-- A bracket around a body (R75): the whole run of the command, to its response. -/
theorem runAlone_bracket (hidle : Idle s) (hopen : GuardOpen s) (hmax : s.count ≠ s.cfg.maxCount)
    (hstart : StepsAs i s .idle (bracketStep s.active w wrap first (bodyStep s.active) .inc))
    (hwrap : ∀ (pc : BracketPc β) (u : State), Present u →
      StepsAs i u (wrap pc) (bracketStep u.active w wrap first (bodyStep u.active) pc))
    (hbody : Goes i s.opened (wrap (.body first)) body t (wrap (.dec st v))) (ht : InBracket s t) :
    runAlone ((bracketEvents s.count body).length + 1) i s =
      .next (t.closed.answered w (bracketEvents s.count body) st v) := by
  have hs := present_of_idle hidle
  have ht' := ht.present hs
  have hopened : Goes i s .idle (openEvents s.count) s.opened (wrap (.body first)) :=
    goes_opened hs hopen hmax hstart fun u hu ha => ha ▸ hwrap .enter u hu
  have hclosed : Goes i t (wrap (.dec st v)) (closeEvents s.count) t.closed (wrap (.respond st v)) := by
    have h := goes_closed ht' (ht.guardOpen hopen) (by rw [ht.count]; omega) (hwrap (.dec st v) t ht')
      fun u hu ha => ha ▸ hwrap (.exit st v) u hu
    rwa [ht.count, Nat.add_sub_cancel] at h
  rw [bracketEvents_eq]
  exact ((hopened.trans hbody).trans hclosed).run hidle (hwrap (.respond st v) t.closed ht')

end Bracket

/-! ### Single bits -/

/-- The run of a bracket whose body left the line released after `n` draws, written out: nothing else changed. -/
theorem answered_closed_drawn (s : State) (n : Nat) (w : Word) (ks : List EventKind) (v : Byte) :
    (s.opened.drawn n).closed.answered w ks .ok v = { State.useDraw^[n] s with
      lineDrive := .released
      region := if s.count = 0 then false else s.region
      owner := if s.count = 0 then none else s.owner
      hist := histWith s (ks ++ [.respond .ok v])
      agents := agentsAfter s .ok v } := by
  rw [State.answered_ok, (inBracket_drawn s n).closed_eq, State.drawn_eq, iterate_useDraw_opened,
    iterate_useDraw_eq s n]
  rfl

/-- WRITE_BIT's whole run (R79). -/
theorem runAlone_writeBit {s : State} (bit : Bit) (hidle : Idle s) (hopen : GuardOpen s)
    (hmax : s.count ≠ s.cfg.maxCount) :
    runAlone ((bracketEvents s.count (writeSlotEvents bit)).length + 1) (.writeBit bit) s =
      .next ((s.opened.drawn 0).closed.answered (Instr.writeBit bit).word (bracketEvents s.count (writeSlotEvents bit))
        .ok 0x00) :=
  have hs := present_of_idle hidle
  runAlone_bracket (wrap := writeBitPhase bit)
    (bodyStep := fun a => writeSlotStep a bit (fun p => writeBitPhase bit (.body p))
      (writeBitPhase bit (.dec .ok 0x00)))
    hidle hopen hmax (stepsAs_idle (f := .writeBit bit .inc) hs rfl)
    (fun pc _ hu => stepsAs_running (f := .writeBit bit pc) hu)
    (goes_writeSlot (wrap := fun p => writeBitPhase bit (.body p)) hs
      fun pc _ hu => stepsAs_running (f := .writeBit bit (.body pc)) hu) (inBracket_drawn s 0)

/-- Settles O36: the bracket around one write slot, which takes no draw. -/
theorem writeBitSendsOneSlot : Obligations.WriteBitSendsOneSlot := by
  intro s bit hidle hopen hmax
  have hrun := runAlone_writeBit bit hidle hopen hmax
  rw [answered_closed_drawn] at hrun
  exact runAlone_succ hrun

/-- READ_BIT's whole run (R82). -/
theorem runAlone_readBit {s : State} (hidle : Idle s) (hopen : GuardOpen s) (hmax : s.count ≠ s.cfg.maxCount) :
    runAlone ((bracketEvents s.count (readSlotEvents s.drawLevel)).length + 1) .readBit s =
      .next ((s.opened.drawn 1).closed.answered Instr.readBit.word (bracketEvents s.count (readSlotEvents s.drawLevel))
        .ok (zext8 s.drawLevel)) :=
  have hs := present_of_idle hidle
  runAlone_bracket (wrap := readBitPhase) (bodyStep := readBitBodyStep) hidle hopen hmax
    (stepsAs_idle (f := .readBit .inc) hs rfl) (fun pc _ hu => stepsAs_running (f := .readBit pc) hu)
    (goes_readSlot (s := s.opened) (wrap := fun b p => readBitPhase (.body ⟨b, p⟩))
      (done := fun b => readBitPhase (.dec .ok (zext8 b))) hs
      fun b pc _ hu => stepsAs_running (f := .readBit (.body ⟨b, pc⟩)) hu) (inBracket_drawn s 1)

/-- Settles O37: the bracket around one read slot, which takes one draw. -/
theorem readBitReturnsTheSample : Obligations.ReadBitReturnsTheSample := by
  intro s hidle hopen hmax
  have hrun := runAlone_readBit hidle hopen hmax
  rw [answered_closed_drawn] at hrun
  exact runAlone_succ hrun

/-! ### One bit of a byte command -/

section Bit

variable {i : Instr} {s t u : State} {w : Word} {p q q' r next ovf enter udf exit : Phase} {slot : List EventKind}

/-- One bit of a byte command around its slot (R80, R83): a nested token, and the delay after it. -/
theorem goes_bit (ht : InBracket s t) (hu : InBracket s u) (hopen : GuardOpen s) (hmax : s.count + 1 ≠ s.cfg.maxCount)
    (hinc : StepsAs i t p (acquireStep t.active w ovf enter q))
    (hslot : Goes i { t with count := t.count + 1 } q slot { u with count := u.count + 1 } q')
    (hdec : StepsAs i { u with count := u.count + 1 } q' (releaseStep u.active w udf exit r))
    (hibd : StepsAs i u r (fun v => (v.delay u.active .ibd).setPhase u.active next)) :
    Goes i t p (bitEvents (s.count + 1) slot) u next := by
  have htaken : Goes i t p [.inc (s.count + 1)] { t with count := t.count + 1 } q := by
    have h := hinc.goes (acquireStep_midway (ht.guardOpen hopen) (by rwa [ht.count, ht.cfg]))
    simpa [ht.count] using h
  have hgiven : Goes i { u with count := u.count + 1 } q' [.dec (s.count + 1)] u r := by
    have h := hdec.goes (releaseStep_midway (s := { u with count := u.count + 1 }) (hu.guardOpen hopen) (by simp))
    have hne : u.count ≠ 0 := by rw [hu.count]; omega
    rw [← hu.count]
    simpa only [Nat.add_sub_cancel, if_neg hne] using h
  exact (htaken.trans hslot).trans (hgiven.cons (goes_delay hibd))

end Bit

/-! ### WRITE_BYTE -/

/-- `s` after `m` write slots. -/
def State.written (s : State) : Nat → State
  | 0 => s
  | _ + 1 => { s with lineDrive := .released }

/-- One more write slot. -/
theorem written_succ (s : State) (m : Nat) :
    ({ s.written m with lineDrive := .released } : State) = s.written (m + 1) := by
  cases m <;> rfl

theorem inBracket_written (s : State) (m : Nat) : InBracket s (s.opened.written m) := by
  cases m <;> constructor <;> rfl

/-- WRITE_BYTE's phase before its bit `m`, and after bit 7. -/
def writeByteAt (byte : Byte) (m : Nat) : Phase :=
  if h : m < 8 then writeBytePhase byte (.body ⟨⟨m, h⟩, .inc⟩) else writeBytePhase byte (.dec .ok 0x00)

/-- Bit `m` of WRITE_BYTE (R80). -/
theorem goes_writeByte_bit {s : State} (byte : Byte) (hidle : Idle s) (hopen : GuardOpen s)
    (hmax : s.count + 1 ≠ s.cfg.maxCount) {m : Nat} (hm : m < 8) :
    Goes (.writeByte byte) (s.opened.written m) (writeByteAt byte m)
      (bitEvents (s.count + 1) (writeSlotEvents (bitAt byte ⟨m, hm⟩))) (s.opened.written (m + 1))
      (writeByteAt byte (m + 1)) := by
  let at_ (p : NestedPc WriteSlotPc) : Flight := .writeByte byte (.body ⟨⟨m, hm⟩, p⟩)
  have hs := present_of_idle hidle
  have hstart : writeByteAt byte m = .running (at_ .inc) := dif_pos hm
  have ht := (inBracket_written s m).present hs
  have hu := (inBracket_written s (m + 1)).present hs
  have hslot := goes_writeSlot (s := { s.opened.written m with count := (s.opened.written m).count + 1 }) ht
    (wrap := fun p => .running (at_ (.slot p))) (bit := bitAt byte ⟨m, hm⟩) (done := .running (at_ .dec))
    fun pc t ht => stepsAs_running (f := at_ (.slot pc)) ht
  rw [hstart]
  exact goes_bit (inBracket_written s m) (inBracket_written s (m + 1)) hopen hmax
    (stepsAs_running (f := at_ .inc) ht) (written_succ s.opened m ▸ hslot) (stepsAs_running (f := at_ .dec) hu)
    (stepsAs_running (f := at_ .ibd) hu)

/-- The events of WRITE_BYTE's body, bit by bit. -/
theorem writeByteEvents_eq (k : Nat) (byte : Byte) :
    writeByteEvents k byte =
      (List.range 8).flatMap (fun m => bitEvents k (writeSlotEvents (bitAt byte (Fin.ofNat 8 m)))) := rfl

/-- WRITE_BYTE's whole run (R80). -/
theorem runAlone_writeByte {s : State} (byte : Byte) (hidle : Idle s) (hopen : GuardOpen s)
    (hmax : s.count ≠ s.cfg.maxCount) (hmax' : s.count + 1 ≠ s.cfg.maxCount) :
    runAlone ((bracketEvents s.count (writeByteEvents (s.count + 1) byte)).length + 1) (.writeByte byte) s =
      .next ((s.opened.drawn 0).closed.answered (Instr.writeByte byte).word
        (bracketEvents s.count (writeByteEvents (s.count + 1) byte)) .ok 0x00) := by
  have hs := present_of_idle hidle
  have hbody : Goes (.writeByte byte) s.opened (writeByteAt byte 0) (writeByteEvents (s.count + 1) byte)
      (s.opened.drawn 0) (writeByteAt byte 8) := by
    rw [writeByteEvents_eq]
    refine Goes.loop (S := s.opened.written) (n := 8) fun m hm => ?_
    have hbit := goes_writeByte_bit byte hidle hopen hmax' hm
    rwa [show (⟨m, hm⟩ : Fin 8) = Fin.ofNat 8 m from Fin.ext (Nat.mod_eq_of_lt hm).symm] at hbit
  exact runAlone_bracket (wrap := writeBytePhase byte) (bodyStep := fun a => writeByteBodyStep a byte) hidle hopen hmax
    (stepsAs_idle (f := .writeByte byte .inc) hs rfl) (fun pc _ hu => stepsAs_running (f := .writeByte byte pc) hu)
    hbody (inBracket_drawn s 0)

/-- Settles O38: the bracket around eight bits, which take no draw. -/
theorem writeByteSendsEightSlots : Obligations.WriteByteSendsEightSlots := by
  intro s byte hidle hopen hmax hmax'
  have hrun := runAlone_writeByte byte hidle hopen hmax hmax'
  rw [answered_closed_drawn] at hrun
  exact runAlone_succ hrun

/-! ### READ_BYTE -/

/-- `s` after `m` read slots. -/
def State.readSlots (s : State) : Nat → State
  | 0 => s
  | m + 1 => s.drawn (m + 1)

/-- One more read slot. -/
theorem readSlots_succ (s : State) (m : Nat) :
    ({ (s.readSlots m).useDraw with lineDrive := .released } : State) = s.readSlots (m + 1) := by
  cases m with
  | zero => rfl
  | succ m => rw [State.readSlots, useDraw_drawn]; rfl

/-- The level read slot `m` samples. -/
theorem drawLevel_readSlots (s : State) (m : Nat) : (s.readSlots m).drawLevel = levelAt s m := by
  cases m <;> rfl

theorem inBracket_readSlots (s : State) (m : Nat) : InBracket s (s.opened.readSlots m) := by
  cases m with
  | zero => constructor <;> rfl
  | succ m => exact inBracket_drawn s (m + 1)

/-- The byte that READ_BYTE has put together after `m` bits (R83). -/
def byteRead (s : State) : Nat → Byte
  | 0 => 0x00
  | m + 1 => byteRead s m ||| (zext8 (levelAt s m) <<< m)

/-- READ_BYTE's phase before its bit `m`, and after bit 7. -/
def readByteAt (s : State) (m : Nat) : Phase :=
  if h : m < 8 then readBytePhase (.body ⟨⟨m, h⟩, byteRead s m, 0, .inc⟩) else readBytePhase (.dec .ok (byteRead s m))

/-- Bit `m` of READ_BYTE (R83). -/
theorem goes_readByte_bit {s : State} (hidle : Idle s) (hopen : GuardOpen s) (hmax : s.count + 1 ≠ s.cfg.maxCount)
    {m : Nat} (hm : m < 8) :
    Goes .readByte (s.opened.readSlots m) (readByteAt s m) (bitEvents (s.count + 1) (readSlotEvents (levelAt s m)))
      (s.opened.readSlots (m + 1)) (readByteAt s (m + 1)) := by
  let at_ (b : Bit) (p : NestedPc ReadSlotPc) : Flight := .readByte (.body ⟨⟨m, hm⟩, byteRead s m, b, p⟩)
  have hs := present_of_idle hidle
  have hstart : readByteAt s m = .running (at_ 0 .inc) := dif_pos hm
  have ht := (inBracket_readSlots s m).present hs
  have hu := (inBracket_readSlots s (m + 1)).present hs
  have hlevel : ({ s.opened.readSlots m with count := (s.opened.readSlots m).count + 1 } : State).drawLevel =
      levelAt s m := (drawLevel_readSlots s.opened m).trans (levelAt_opened s m)
  have hdraw : ({ State.useDraw { s.opened.readSlots m with count := (s.opened.readSlots m).count + 1 } with
      lineDrive := .released } : State) =
      { s.opened.readSlots (m + 1) with count := (s.opened.readSlots (m + 1)).count + 1 } := by
    rw [← readSlots_succ]; simp only [State.useDraw_eq]
  have hslot := goes_readSlot (s := { s.opened.readSlots m with count := (s.opened.readSlots m).count + 1 }) ht
    (wrap := fun b p => .running (at_ b (.slot p))) (b := 0) (done := fun b => .running (at_ b .dec))
    fun b pc t ht => stepsAs_running (f := at_ b (.slot pc)) ht
  rw [hdraw, hlevel] at hslot
  rw [hstart]
  exact goes_bit (inBracket_readSlots s m) (inBracket_readSlots s (m + 1)) hopen hmax
    (stepsAs_running (f := at_ 0 .inc) ht) hslot (stepsAs_running (f := at_ (levelAt s m) .dec) hu)
    (stepsAs_running (f := at_ (levelAt s m) .ibd) hu)

/-- READ_BYTE's whole run (R83). -/
theorem runAlone_readByte {s : State} (hidle : Idle s) (hopen : GuardOpen s) (hmax : s.count ≠ s.cfg.maxCount)
    (hmax' : s.count + 1 ≠ s.cfg.maxCount) :
    runAlone ((bracketEvents s.count (readByteEvents (s.count + 1) ((List.range 8).map (levelAt s)))).length + 1)
        .readByte s =
      .next ((s.opened.drawn 8).closed.answered Instr.readByte.word
        (bracketEvents s.count (readByteEvents (s.count + 1) ((List.range 8).map (levelAt s)))) .ok
        (byteRead s 8)) := by
  have hs := present_of_idle hidle
  have hbody : Goes .readByte s.opened (readByteAt s 0) (readByteEvents (s.count + 1) ((List.range 8).map (levelAt s)))
      (s.opened.drawn 8) (readByteAt s 8) :=
    Goes.loop (S := s.opened.readSlots) (n := 8) fun _ hm => goes_readByte_bit hidle hopen hmax' hm
  exact runAlone_bracket (wrap := readBytePhase) (bodyStep := readByteBodyStep) hidle hopen hmax
    (stepsAs_idle (f := .readByte .inc) hs rfl) (fun pc _ hu => stepsAs_running (f := .readByte pc) hu)
    hbody (inBracket_drawn s 8)

/-- A sampled bit, widened and put at position `m`, has that bit and no other. -/
theorem getLsbD_zext8_shiftLeft (b : Bit) (m k : Nat) (hk : k < 8) :
    (zext8 b <<< m).getLsbD k = (decide (k = m) && b.getLsbD 0) := by
  rw [zext8, BitVec.getLsbD_shiftLeft, BitVec.getLsbD_setWidth]
  rcases Nat.lt_trichotomy k m with h | rfl | h
  · simp [h, h.ne]
  · simp [hk]
  · have hb : b.getLsbD (k - m) = false := BitVec.getLsbD_of_ge b _ (by omega)
    simp [hb, h.ne']

/-- Bit `k` of the byte read is sample `k`, once its slot is over (R83). -/
theorem getLsbD_byteRead (s : State) (m k : Nat) (hk : k < 8) :
    (byteRead s m).getLsbD k = (decide (k < m) && (levelAt s k).getLsbD 0) := by
  induction m with
  | zero => simp [byteRead]
  | succ m ih =>
    rw [byteRead, BitVec.getLsbD_or, ih, getLsbD_zext8_shiftLeft _ _ _ hk]
    by_cases hkm : k = m
    · subst hkm; simp
    · have hlt : k < m + 1 ↔ k < m := by omega
      simp [hkm, hlt]

/-- Settles O39: the bracket around eight bits, which take eight draws. -/
theorem readByteCollectsEightSamples : Obligations.ReadByteCollectsEightSamples := by
  intro s hidle hopen hmax hmax'
  have hrun := runAlone_readByte hidle hopen hmax hmax'
  rw [answered_closed_drawn] at hrun
  obtain ⟨s1, hexec, hrest⟩ := runAlone_succ hrun
  refine ⟨s1, byteRead s 8, fun k => ?_, hexec, hrest⟩
  refine BitVec.eq_of_getLsbD_eq fun j hj => ?_
  obtain rfl : j = 0 := by omega
  rw [BitVec.getLsbD_extractLsb', Nat.add_zero, getLsbD_byteRead s 8 k k.isLt]
  simp

/-! ### A nested overflow -/

/-- An increment step at the top of `COUNT`, on the way (R68). -/
theorem goes_overflow {i : Instr} {s : State} {w : Word} {p ovf enter onward : Phase} (hopen : GuardOpen s)
    (hmax : s.count = s.cfg.maxCount) (hinc : StepsAs i s p (acquireStep s.active w ovf enter onward)) :
    Goes i s p [.incOverflow] { s with err := s.err ||| 0x08 } ovf := hinc.goes fun before => by
  have hopen' : (s.midway before p).contended s.active = false := contended_of_guardOpen hopen
  rw [acquireStep_overflow hopen' hmax]
  exact midway_setErr .guardOverflow .incOverflow

/-- The state in a bracket whose first nested token overflowed (R81). -/
def State.overflowed (s : State) : State := { s.opened with err := s.err ||| 0x08 }

theorem inBracket_overflowed (s : State) : InBracket s s.overflowed := by constructor <;> rfl

/-- The run of a byte command that overflowed at bit 0 (R81). -/
theorem runAlone_overflowed {s : State} {i : Instr} (hi : i = .readByte ∨ ∃ byte, i = .writeByte byte) (hidle : Idle s)
    (hopen : GuardOpen s) (hmax : s.count + 1 = s.cfg.maxCount) :
    runAlone ((bracketEvents s.count [.incOverflow]).length + 1) i s =
      .next (s.overflowed.closed.answered i.word (bracketEvents s.count [.incOverflow]) .guardOverflow 0x00) := by
  have hs := present_of_idle hidle
  have hopen' : GuardOpen s.opened := (inBracket_written s 0).guardOpen hopen
  have hmax' : s.count ≠ s.cfg.maxCount := by omega
  obtain rfl | ⟨byte, rfl⟩ := hi
  · exact runAlone_bracket (wrap := readBytePhase) (bodyStep := readByteBodyStep) hidle hopen hmax'
      (stepsAs_idle (f := .readByte .inc) hs rfl) (fun pc _ hu => stepsAs_running (f := .readByte pc) hu)
      (goes_overflow (s := s.opened) hopen' hmax
        (stepsAs_running (s := s.opened) (f := .readByte (.body ⟨0, 0x00, 0, .inc⟩)) hs))
      (inBracket_overflowed s)
  · exact runAlone_bracket (wrap := writeBytePhase byte) (bodyStep := fun a => writeByteBodyStep a byte) hidle hopen
      hmax' (stepsAs_idle (f := .writeByte byte .inc) hs rfl)
      (fun pc _ hu => stepsAs_running (f := .writeByte byte pc) hu)
      (goes_overflow (s := s.opened) hopen' hmax
        (stepsAs_running (s := s.opened) (f := .writeByte byte (.body ⟨0, .inc⟩)) hs))
      (inBracket_overflowed s)

/-- Settles O43: the bracket around the increment step that overflows. -/
theorem nestedOverflowStopsAByteCommand : Obligations.NestedOverflowStopsAByteCommand := by
  intro s i hi hidle hopen hmax
  have hrun := runAlone_overflowed hi hidle hopen hmax
  rw [(inBracket_overflowed s).closed_eq] at hrun
  exact runAlone_succ hrun

end Sys2Proof.Machine
end

section
/-! PROOFS. Whole runs of RESET (R78): the reset pulse, the presence window, and the wait for the end of the presence
pulse (R104). -/

namespace Sys2Proof.Machine

open Sys2Proof.Safety

/-! ### The parts of RESET -/

/-- Rounds with the same events. -/
theorem flatten_replicate_eq_flatMap {α : Type} (n : Nat) (x : List α) :
    (List.replicate n x).flatten = (List.range n).flatMap (fun _ => x) := by
  simp [List.flatMap, List.map_const']

/-- RESET's phase before its poll `m`, after `m` draws (R78). -/
def pollAt (s : State) (m : Nat) : Phase := resetPoll m (s.drawn m)

theorem pollAt_of_lt {s : State} {m : Nat} (h : m < s.cfg.nPp) : pollAt s m = resetPhase (.body (.poll m)) := by
  rw [pollAt, resetPoll, State.drawn_eq, if_pos h]

theorem pollAt_nPp (s : State) : pollAt s s.cfg.nPp = resetPhase (.dec .ok 0x00) := by
  rw [pollAt, resetPoll, State.drawn_eq, if_neg (Nat.lt_irrefl _)]

section Parts

variable {s : State} {m : Nat}

/-- A step of RESET's body. -/
theorem stepsAs_resetBody (hs : Present s) (pc : ResetPc) :
    StepsAs .reset s (resetPhase (.body pc)) (resetBodyStep s.active pc) :=
  stepsAs_running (f := .reset (.body pc)) hs

/-- The reset pulse. -/
theorem goes_pulse (hs : Present s) :
    Goes .reset s (resetPhase (.body .low)) pulseEvents (s.drawn 0) (pollAt s 0) := by
  have hlow := goes_driveLow (stepsAs_resetBody hs .low)
  have hhold := goes_delay (stepsAs_resetBody (s := { s with lineDrive := .driven }) hs .hold)
  have hup := goes_lineRelease (stepsAs_resetBody (s := { s with lineDrive := .driven }) hs .up)
  have hsettle := goes_delay (q := pollAt s 0) (stepsAs_resetBody (s := s.drawn 0) hs .settle)
  exact hlow.cons (hhold.cons (hup.cons hsettle))

/-- The sample of poll `m`. -/
theorem goes_poll (hs : Present s) (hm : m < s.cfg.nPp) :
    Goes .reset (s.drawn m) (pollAt s m) [.sample (levelAt s m)] (s.drawn (m + 1))
      (if levelAt s m = 0 then resetPhase (.body .waitSample) else resetPhase (.body (.pollDelay m))) := by
  have hsample := goes_sample (s := s.drawn m) rfl
    (next := fun l => if l = 0 then resetPhase (.body .waitSample) else resetPhase (.body (.pollDelay m)))
    (stepsAs_resetBody (present_drawn hs m) (.poll m))
  rwa [drawLevel_drawn, useDraw_drawn, ← pollAt_of_lt hm] at hsample

/-- A round of the presence window without presence. -/
theorem goes_absent (hs : Present s) (hm : m < s.cfg.nPp) (hlevel : levelAt s m = 1) :
    Goes .reset (s.drawn m) (pollAt s m) [.sample 1, .delay .pp] (s.drawn (m + 1)) (pollAt s (m + 1)) := by
  have hpoll := goes_poll hs hm
  rw [hlevel] at hpoll
  exact hpoll.cons (goes_delay (stepsAs_resetBody (present_drawn hs (m + 1)) (.pollDelay m)))

/-- The presence window, as long as no device asserts presence. -/
theorem goes_absentRounds {n : Nat} (hs : Present s) (hn : n ≤ s.cfg.nPp) (hlevels : ∀ m, m < n → levelAt s m = 1) :
    Goes .reset (s.drawn 0) (pollAt s 0) (absentEvents n) (s.drawn n) (pollAt s n) := by
  rw [absentEvents, flatten_replicate_eq_flatMap]
  exact Goes.loop fun m hm => goes_absent hs (hm.trans_le hn) (hlevels m hm)

/-- The sample after `m` draws in the wait for the end of the presence pulse. -/
theorem goes_waitSample (hs : Present s) (m : Nat) :
    Goes .reset (s.drawn m) (resetPhase (.body .waitSample)) [.sample (levelAt s m)] (s.drawn (m + 1))
      (if levelAt s m = 0 then resetPhase (.body .waitDelay) else resetPhase (.dec .ok 0x01)) := by
  have hsample := goes_sample (s := s.drawn m) rfl
    (next := fun l => if l = 0 then resetPhase (.body .waitDelay) else resetPhase (.dec .ok 0x01))
    (stepsAs_resetBody (present_drawn hs m) .waitSample)
  rwa [drawLevel_drawn, useDraw_drawn] at hsample

/-- The wait goes on with every low sample (R104). -/
theorem goes_waitRounds {n : Nat} (hs : Present s) (hlevels : ∀ k, k < n → levelAt s (m + k) = 0) :
    Goes .reset (s.drawn m) (resetPhase (.body .waitSample)) (List.replicate n [.sample 0, .delay .wh]).flatten
      (s.drawn (m + n)) (resetPhase (.body .waitSample)) := by
  rw [flatten_replicate_eq_flatMap]
  refine Goes.loop (S := fun k => s.drawn (m + k)) (P := fun _ => resetPhase (.body .waitSample)) fun k hk => ?_
  have hsample := goes_waitSample hs (m + k)
  rw [hlevels k hk] at hsample
  exact hsample.cons (goes_delay (stepsAs_resetBody (present_drawn hs (m + k + 1)) .waitDelay))

end Parts

/-! ### Whole runs -/

section Runs

variable {s : State}

/-- RESET's whole run around its body. -/
theorem runAlone_reset {body : List EventKind} {n : Nat} {v : Byte} (hidle : Idle s) (hopen : GuardOpen s)
    (hmax : s.count ≠ s.cfg.maxCount)
    (hbody : Goes .reset s.opened (resetPhase (.body .low)) body (s.opened.drawn n) (resetPhase (.dec .ok v))) :
    runAlone ((bracketEvents s.count body).length + 1) .reset s =
      .next ((s.opened.drawn n).closed.answered Instr.reset.word (bracketEvents s.count body) .ok v) :=
  runAlone_bracket (wrap := resetPhase) (bodyStep := resetBodyStep) hidle hopen hmax
    (stepsAs_idle (f := .reset .inc) (present_of_idle hidle) rfl) (fun pc _ hu => stepsAs_running (f := .reset pc) hu)
    hbody (inBracket_drawn s n)

/-- RESET's body when no device asserts presence (R78 (a)). -/
theorem goes_resetAbsent (hs : Present s) (hlevels : ∀ m, m < s.cfg.nPp → levelAt s m = 1) :
    Goes .reset s (resetPhase (.body .low)) (pulseEvents ++ absentEvents s.cfg.nPp) (s.drawn s.cfg.nPp)
      (resetPhase (.dec .ok 0x00)) := by
  rw [← pollAt_nPp s]
  exact (goes_pulse hs).trans (goes_absentRounds hs le_rfl hlevels)

/-- RESET's body with presence on sample `j` and `w` low wait samples (R78 (b)). -/
theorem goes_resetPresent {j w : Nat} (hs : Present s) (hj : j < s.cfg.nPp) (habsent : ∀ m, m < j → levelAt s m = 1)
    (hpresent : levelAt s j = 0) (hlow : ∀ m, m < w → levelAt s (j + 1 + m) = 0)
    (hhigh : levelAt s (j + 1 + w) = 1) :
    Goes .reset s (resetPhase (.body .low)) (pulseEvents ++ presentEvents j w) (s.drawn (j + w + 2))
      (resetPhase (.dec .ok 0x01)) := by
  have hpoll := goes_poll hs hj
  rw [hpresent] at hpoll
  have hend := goes_waitSample hs (j + 1 + w)
  rw [hhigh, show j + 1 + w + 1 = j + w + 2 by omega] at hend
  exact (goes_pulse hs).trans
    ((((goes_absentRounds hs hj.le habsent).trans hpoll).trans (goes_waitRounds hs hlow)).trans hend)

end Runs

/-- Settles O40: the bracket around the pulse, the polls up to the presence, and the wait for its end. -/
theorem resetFindsPresence : Obligations.ResetFindsPresence := by
  intro s j w hidle hopen hmax hj habsent hpresent hlow hhigh
  simp only [← levelAt_opened s] at habsent hpresent hlow hhigh
  have hrun := runAlone_reset hidle hopen hmax
    (goes_resetPresent (s := s.opened) (present_of_idle hidle) hj habsent hpresent hlow hhigh)
  rw [answered_closed_drawn] at hrun
  exact runAlone_succ hrun

/-- Settles O41: the bracket around the pulse and `N_PP` polls. -/
theorem resetFindsNobody : Obligations.ResetFindsNobody := by
  intro s hidle hopen hmax hlevels
  simp only [← levelAt_opened s] at hlevels
  have hrun := runAlone_reset hidle hopen hmax
    (goes_resetAbsent (s := s.opened) (present_of_idle hidle) hlevels)
  rw [answered_closed_drawn] at hrun
  exact runAlone_succ hrun

/-- With the line released, `drawn` changes the draws only. -/
theorem State.drawn_of_released {s : State} (hline : s.lineDrive = .released) (n : Nat) :
    s.drawn n = State.useDraw^[n] s := by
  rw [State.drawn_eq, iterate_useDraw_eq s n, ← hline]

/-- Events that come back to the phase the active agent is at change `HIST` only. -/
theorem midway_eq_of_phaseOf {s : State} {p : Phase} (h : s.phaseOf s.active = some p) (ks : List EventKind) :
    s.midway ks p = { s with hist := histWith s ks } :=
  congrArg (fun t : State => { t with hist := histWith s ks }) (State.midway_of_phaseOf h)

/-- Settles O42: the rounds of the wait, which come back to the same position. -/
theorem resetWaitHasNoBound : Obligations.ResetWaitHasNoBound := by
  intro s n hwait hline hlevels
  change s.phaseOf s.active = some (resetPhase (.body .waitSample)) at hwait
  have hwait' : (State.useDraw^[n] s).phaseOf (State.useDraw^[n] s).active = some (resetPhase (.body .waitSample)) := by
    rw [iterate_useDraw_eq]; exact hwait
  have hlength : (List.replicate n [EventKind.sample 0, .delay .wh]).flatten.length = 2 * n := by simp [Nat.mul_comm]
  have hrounds := goes_waitRounds (m := 0) (n := n) ⟨_, hwait⟩ (by simpa using hlevels) []
  rw [hlength, Nat.zero_add, State.drawn_of_released hline, State.drawn_of_released hline, Function.iterate_zero_apply,
    State.midway_of_phaseOf hwait, midway_eq_of_phaseOf hwait', List.nil_append] at hrounds
  rw [hrounds, iterate_useDraw_eq s n]
  rfl

end Sys2Proof.Machine
end

section
/-! PROOFS. The nominal durations of 70_reset_and_hazards.md section 4 (R132): the delays in the events of whole
runs. -/

namespace Sys2Proof.Machine

open Sys2Proof.Safety

/-! ### Delays of events -/

/-- The delays of `ks` add up to `n`, and no event of `ks` is a response. -/
structure Takes (c : Config) (ks : List EventKind) (n : Nat) : Prop where
  no_respond : ∀ q v, .respond q v ∉ ks
  total : delayTotal c ks = n

section Takes

variable {c : Config} {ks ls : List EventKind} {m n k : Nat}

theorem Takes.append (h : Takes c ks m) (h' : Takes c ls n) : Takes c (ks ++ ls) (m + n) where
  no_respond q v := by simp [h.no_respond, h'.no_respond]
  total := by rw [delayTotal, List.map_append, List.sum_append]; exact congrArg₂ _ h.total h'.total

/-- Rounds that take as long as each other. -/
theorem Takes.flatMap {α : Type} {xs : List α} {K : α → List EventKind} (h : ∀ x ∈ xs, Takes c (K x) n) :
    Takes c (xs.flatMap K) (xs.length * n) := by
  induction xs with
  | nil => exact ⟨by simp, by simp [delayTotal]⟩
  | cons x xs ih =>
    obtain ⟨hx, hxs⟩ := List.forall_mem_cons.mp h
    rw [List.flatMap_cons, List.length_cons, Nat.succ_mul, Nat.add_comm]
    exact hx.append (ih hxs)

theorem Takes.rounds (h : Takes c ks n) : Takes c (List.replicate m ks).flatten (m * n) := by
  rw [flatten_replicate_eq_flatMap]
  simpa using Takes.flatMap (xs := List.range m) fun _ _ => h

/-- A bracket takes no time of its own. -/
theorem Takes.bracket (h : Takes c ks n) : Takes c (bracketEvents k ks) n := by
  unfold bracketEvents
  split <;> exact ⟨by simp [h.no_respond], by simpa [delayTotal, eventMicros] using h.total⟩

theorem takes_openEvents : Takes c (openEvents k) 0 := by
  unfold openEvents
  split <;> exact ⟨by simp, by simp [delayTotal, eventMicros]⟩

theorem takes_closeEvents : Takes c (closeEvents k) 0 := by
  unfold closeEvents
  split <;> exact ⟨by simp, by simp [delayTotal, eventMicros]⟩

/-- A write slot is as long for either bit (R76). -/
theorem takes_writeSlotEvents (hc : c.MeetsR125) (bit : Bit) : Takes c (writeSlotEvents bit) c.tSlot := by
  have hlow := hc.tW1Low_lt_tSlot
  unfold writeSlotEvents
  split
  · exact ⟨by simp, by simp [delayTotal, eventMicros, micros]⟩
  · exact ⟨by simp, by simp [delayTotal, eventMicros, micros]; omega⟩

theorem takes_readSlotEvents (hc : c.MeetsR125) (l : Bit) : Takes c (readSlotEvents l) (c.tRdLow + c.tRdRest) := by
  have hsample := hc.tRdSample_lt_tRdRest
  exact ⟨by simp [readSlotEvents], by simp [readSlotEvents, delayTotal, eventMicros, micros]; omega⟩

theorem Takes.bit (h : Takes c ks n) : Takes c (bitEvents k ks) (n + c.tIbd) := by
  have hinc : Takes c [.inc k] 0 := ⟨by simp, by simp [delayTotal, eventMicros]⟩
  have hend : Takes c [.dec k, .delay .ibd] c.tIbd := ⟨by simp, by simp [delayTotal, eventMicros, micros]⟩
  rw [← Nat.zero_add n]
  exact (hinc.append h).append hend

theorem takes_pulseEvents : Takes c pulseEvents (c.tRstLow + c.tRstSettle) :=
  ⟨by simp [pulseEvents], by simp [pulseEvents, delayTotal, eventMicros, micros]⟩

theorem takes_absentEvents : Takes c (absentEvents n) (n * c.tPp) :=
  Takes.rounds ⟨by simp, by simp [delayTotal, eventMicros, micros]⟩

theorem takes_presentEvents : Takes c (presentEvents m n) (m * c.tPp + n * c.tWh) := by
  have hsample (l : Bit) : Takes c [.sample l] 0 := ⟨by simp, by simp [delayTotal, eventMicros]⟩
  have hwait : Takes c [.sample 0, .delay .wh] c.tWh := ⟨by simp, by simp [delayTotal, eventMicros, micros]⟩
  exact ((takes_absentEvents.append (hsample 0)).append hwait.rounds).append (hsample 1)

end Takes

/-! ### Whole runs -/

/-- A whole run whose events before the response take `n` µs. -/
theorem exists_runsTo {i : Instr} {s t : State} {ks : List EventKind} {st : Status} {v : Byte} {n : Nat}
    (hidle : Idle s) (hrun : ∃ s1, exec i s = .next s1 ∧ runAlone ks.length i s1 = .next t)
    (hhist : t.hist = histWith s (ks ++ [.respond st v])) (htakes : Takes s.cfg ks n) :
    ∃ ks t, RunsTo i s ks t ∧ delayTotal s.cfg ks = n := by
  obtain ⟨s1, hexec, hrest⟩ := hrun
  refine ⟨_, t, ⟨hidle, ks, st, v, s1, rfl, htakes.no_respond, hexec, hrest, hhist⟩, ?_⟩
  rw [delayTotal, List.map_append, List.sum_append]
  exact htakes.total

section Durations

variable {s : State}

/-- READ_ERR and the CRC commands take no time. -/
theorem duration_atomic {i : Instr} (hidle : Idle s) (hi : guarded i = false) (hwf : i.wellFormed = true) :
    ∃ ks t, RunsTo i s ks t ∧ delayTotal s.cfg ks = 0 :=
  exists_runsTo hidle (ks := []) ⟨_, exec_atomic (startOf_eq_none_iff.mpr hi) hwf hidle, rfl⟩ rfl ⟨by simp, rfl⟩

/-- ACQUIRE takes no time, at the top of `COUNT` either. -/
theorem duration_acquire (hidle : Idle s) (hopen : GuardOpen s) :
    ∃ ks t, RunsTo .acquire s ks t ∧ delayTotal s.cfg ks = 0 := by
  by_cases hmax : s.count = s.cfg.maxCount
  · obtain ⟨s1, hexec, hrespond⟩ := acquireOverflows s .acquire rfl hidle hopen hmax
    exact exists_runsTo hidle (ks := [.incOverflow]) ⟨s1, hexec, runAlone_one hrespond⟩ rfl
      ⟨by simp, by simp [delayTotal, eventMicros]⟩
  · exact exists_runsTo hidle (runAlone_succ (runAlone_acquire hidle hopen hmax)) rfl takes_openEvents

/-- RELEASE takes no time, without a token either. -/
theorem duration_release (hidle : Idle s) (hopen : GuardOpen s) :
    ∃ ks t, RunsTo .release s ks t ∧ delayTotal s.cfg ks = 0 := by
  by_cases hzero : s.count = 0
  · obtain ⟨s1, hexec, hrespond⟩ := releaseUnderflows s hidle hopen hzero
    exact exists_runsTo hidle (ks := [.decUnderflow]) ⟨s1, hexec, runAlone_one hrespond⟩ rfl
      ⟨by simp, by simp [delayTotal, eventMicros]⟩
  · exact exists_runsTo hidle (runAlone_succ (runAlone_release hidle hopen hzero)) rfl takes_closeEvents

end Durations

/-- Settles O59: the whole runs, with the delays of their events. -/
theorem nominalDurations : Obligations.NominalDurations := by
  intro s hadmitted hidle
  have hc := (Config.admitted_iff.mp hadmitted).1
  refine ⟨fun i hi hwf => duration_atomic hidle hi hwf, fun hopen i hi => ?_, fun hopen hmax =>
    ⟨fun bit => ?_, ?_, fun hlevels => ?_, fun j w hj habsent hpresent hlow hhigh => ?_,
      fun hmax' => ⟨fun byte => ?_, ?_⟩⟩⟩
  · obtain rfl | rfl := hi
    · exact duration_acquire hidle hopen
    · exact duration_release hidle hopen
  · exact exists_runsTo hidle (writeBitSendsOneSlot s bit hidle hopen hmax) rfl (takes_writeSlotEvents hc bit).bracket
  · exact exists_runsTo hidle (readBitReturnsTheSample s hidle hopen hmax) rfl (takes_readSlotEvents hc _).bracket
  · exact exists_runsTo hidle (resetFindsNobody s hidle hopen hmax hlevels) rfl
      (takes_pulseEvents.append takes_absentEvents).bracket
  · rw [Nat.add_assoc (_ + _)]
    exact exists_runsTo hidle (resetFindsPresence s j w hidle hopen hmax hj habsent hpresent hlow hhigh) rfl
      (takes_pulseEvents.append takes_presentEvents).bracket
  · exact exists_runsTo hidle (writeByteSendsEightSlots s byte hidle hopen hmax hmax') rfl
      (Takes.flatMap fun _ _ => (takes_writeSlotEvents hc _).bit).bracket
  · obtain ⟨s1, v, -, hexec, hrest⟩ := readByteCollectsEightSamples s hidle hopen hmax hmax'
    exact exists_runsTo hidle ⟨s1, hexec, hrest⟩ rfl (Takes.flatMap fun _ _ => (takes_readSlotEvents hc _).bit).bracket

end Sys2Proof.Machine
end

section
/-! PROOFS. What the CRC detects (42_crc8.md section 4): the residue (R96), and single-bit errors with the default
table (R30). -/

namespace Sys2Proof.Machine

/-- Settles O25: the last byte is looked up at the index 0. -/
theorem crcResidueIsZero : Obligations.CrcResidueIsZero := by
  intro c s hzero
  rw [crc8_append, crc8_cons, crc8_nil, BitVec.xor_self]
  exact hzero

/-! ### The default table -/

/-- One round of R30. -/
def crcRound (c : Byte) : Byte := (c >>> 1) ^^^ (if c.getLsbD 0 then 0x8C else 0x00)

/-- Each entry of the default table is the result of eight rounds from its index (R30). -/
theorem crcEntry_default : ∀ i : Byte, Config.default.crcEntry i = crcRound^[8] i := by decide +kernel

theorem crcRound_xor (x y : Byte) : crcRound (x ^^^ y) = crcRound x ^^^ crcRound y := by
  have hpoly (p q : Bool) : (if (p ^^ q) = true then (0x8C : Byte) else 0x00) =
      (if p = true then 0x8C else 0x00) ^^^ (if q = true then 0x8C else 0x00) := by revert p q; decide
  rw [crcRound, BitVec.ushiftRight_xor_distrib, BitVec.getLsbD_xor, hpoly]
  unfold crcRound
  ac_rfl

theorem iterate_crcRound_xor (n : Nat) (x y : Byte) :
    crcRound^[n] (x ^^^ y) = crcRound^[n] x ^^^ crcRound^[n] y := by
  induction n generalizing x y with
  | zero => rfl
  | succ n ih => rw [Function.iterate_succ_apply, crcRound_xor, ih]; rfl

/-- The default table is linear, because its rounds are. -/
theorem crcEntry_default_xor (x y : Byte) :
    Config.default.crcEntry (x ^^^ y) = Config.default.crcEntry x ^^^ Config.default.crcEntry y := by
  simp only [crcEntry_default, iterate_crcRound_xor]

/-- Only the index 0 has the entry 0. -/
theorem eq_zero_of_crcEntry_default : ∀ i : Byte, Config.default.crcEntry i = 0 → i = 0 := by decide +kernel

theorem crcEntry_default_injective : Function.Injective Config.default.crcEntry := by
  intro x y h
  have hzero : Config.default.crcEntry (x ^^^ y) = 0 := by rw [crcEntry_default_xor, h]; exact BitVec.xor_self
  exact BitVec.xor_eq_zero_iff.mp (eq_zero_of_crcEntry_default _ hzero)

/-! ### Single-bit errors -/

/-- From different accumulators the same bytes lead to different ones. -/
theorem crc8_default_injective (bs : List Byte) : Function.Injective (fun seed => crc8 Config.default seed bs) := by
  induction bs with
  | nil => exact fun _ _ h => h
  | cons b bs ih =>
    intro x y h
    exact BitVec.xor_left_inj b |>.mp (crcEntry_default_injective (ih h))

/-- Every change of one byte changes the CRC8. -/
theorem crc8_default_modify_ne {f : Byte → Byte} (hf : ∀ b, f b ≠ b) {bs : List Byte} {k : Nat} (hk : k < bs.length)
    (seed : Byte) : crc8 Config.default seed (bs.modify k f) ≠ crc8 Config.default seed bs := by
  intro h
  have hsplit : bs = bs.take k ++ bs[k] :: bs.drop (k + 1) := by simp
  rw [List.modify_eq_take_cons_drop hk] at h
  conv_rhs at h => rw [hsplit]
  simp only [crc8_append, crc8_cons] at h
  have hindex := crcEntry_default_injective (crc8_default_injective _ h)
  exact hf _ (BitVec.xor_right_inj _ |>.mp hindex)

/-- A change of one bit changes the byte. -/
theorem flipBit_ne (b : Byte) (j : Fin 8) : b ^^^ (1#8 <<< j.val) ≠ b := by
  have hne : 1#8 <<< j.val ≠ 0#8 := by revert j; decide
  intro h
  have hself : b ^^^ (1#8 <<< j.val) = b ^^^ 0#8 := h.trans BitVec.xor_zero.symm
  exact hne ((BitVec.xor_right_inj b).mp hself)

/-- Settles O26: linear rounds, and an injective fold. -/
theorem singleBitErrorsDetected : Obligations.SingleBitErrorsDetected := by
  refine ⟨crcEntry_default_xor, fun bs k j hk => crc8_default_modify_ne (flipBit_ne · j) hk 0,
    fun sp k j hlen hk hok => ?_⟩
  have hcrc : crc8 Config.default 0 (sp.take 8) = payloadByte sp 8 := beq_iff_eq.mp hok
  have hchanged := crc8_default_modify_ne (flipBit_ne · j) (bs := sp.take 8) (k := k) (by simp; omega) 0
  rw [hcrc, ← List.take_modify] at hchanged
  have hkept : payloadByte (sp.modify k fun b => b ^^^ (1#8 <<< j.val)) 8 = payloadByte sp 8 := by
    simp [payloadByte, hk.ne]
  exact beq_eq_false_iff_ne.mpr fun h => hchanged (h.trans hkept)

end Sys2Proof.Machine
end

section
/-! PROOFS. The assembler's rows (R62): the word and the payload of each, and the operands it rejects. -/

namespace Sys2Proof.Machine

open Sys2Proof.Safety

/-! ### Operands -/

theorem byteOf_of_lt {n : Nat} (h : n < 256) : byteOf n = some (BitVec.ofNat 8 n) := if_pos h

theorem byteOf_of_not_lt {n : Nat} (h : ¬n < 256) : byteOf n = none := if_neg h

/-- A list is one of bytes if each of its numbers is a byte. -/
theorem bytesOf_eq (ns : List Nat) :
    bytesOf ns = if ∀ n ∈ ns, n < 256 then some (ns.map (BitVec.ofNat 8)) else none := by
  induction ns with
  | nil => simp [bytesOf]
  | cons n ns ih =>
    rw [bytesOf, ih]
    simp only [List.forall_mem_cons]
    by_cases hn : n < 256
    · by_cases hns : ∀ n ∈ ns, n < 256
      · rw [byteOf_of_lt hn, if_pos hns, if_pos ⟨hn, hns⟩]; rfl
      · rw [byteOf_of_lt hn, if_neg hns, if_neg fun h => hns h.2]
    · rw [byteOf_of_not_lt hn, if_neg (c := n < 256 ∧ _) fun h => hn h.1]

/-- A command with a list: the list's length and its numbers are checked. -/
theorem listCommand_eq {f : List Byte → Instr} {p : Nat → Prop} [DecidablePred p]
    (hf : ∀ bs, (f bs).wellFormed = decide (p bs.length)) (ns : List Nat) :
    listCommand f ns =
      if p ns.length ∧ ∀ n ∈ ns, n < 256 then some [issue (f (ns.map (BitVec.ofNat 8)))] else none := by
  rw [listCommand, bytesOf_eq]
  by_cases hns : ∀ n ∈ ns, n < 256
  · rw [if_pos hns]
    simp [hf, and_iff_left hns]
  · rw [if_neg hns, if_neg fun h => hns h.2]

/-- An opcode and an operand in range, as a word. -/
theorem append_ofNat (opc : Byte) {n : Nat} (h : n < 256) :
    (opc ++ BitVec.ofNat 8 n : BitVec (8 + 8)) = (opc ++ 0#8) ||| BitVec.ofNat (8 + 8) n := by
  apply BitVec.eq_of_toNat_eq
  rw [BitVec.toNat_or, BitVec.toNat_append, BitVec.toNat_append, BitVec.toNat_ofNat, BitVec.toNat_ofNat,
    BitVec.toNat_ofNat, Nat.mod_eq_of_lt h, Nat.mod_eq_of_lt (by omega : n < 2 ^ (8 + 8)), Nat.zero_mod,
    Nat.or_zero]

/-! ### Rows -/

/-- WRITE_BIT takes the numbers 0 and 1. -/
theorem assembleCommand_writeBit (n : Nat) : assembleCommand "WRITE_BIT".toList [.num n] =
    if n < 2 then some [.command ⟨0x1100 ||| BitVec.ofNat 16 n, []⟩] else none := by
  have hrow : assembleCommand "WRITE_BIT".toList [.num n] =
      if n < 2 then some [issue (.writeBit (BitVec.ofNat 1 n))] else none := by simp [assembleCommand]
  rw [hrow]
  refine ite_congr rfl (fun h => ?_) fun _ => rfl
  obtain rfl | rfl : n = 0 ∨ n = 1 := by omega
  · rfl
  · rfl

theorem issue_writeByte {n : Nat} (h : n < 256) :
    issue (.writeByte (BitVec.ofNat 8 n)) = .command ⟨0x1300 ||| BitVec.ofNat 16 n, []⟩ :=
  congrArg (fun w => Job.command ⟨w, []⟩) (append_ofNat 0x13 h)

/-- WRITE_BYTE takes a byte. -/
theorem assembleCommand_writeByte (n : Nat) : assembleCommand "WRITE_BYTE".toList [.num n] =
    if n < 256 then some [.command ⟨0x1300 ||| BitVec.ofNat 16 n, []⟩] else none := by
  have hrow : assembleCommand "WRITE_BYTE".toList [.num n] = (byteOf n).map (fun b => [issue (.writeByte b)]) := by
    simp [assembleCommand]
  rw [hrow]
  by_cases h : n < 256
  · rw [byteOf_of_lt h, if_pos h, Option.map_some, issue_writeByte h]
  · rw [byteOf_of_not_lt h, if_neg h, Option.map_none]

theorem issue_crc8Step {data : Nat} (h : data < 256) (acc : Byte) :
    issue (.crc8Step (BitVec.ofNat 8 data) acc) = .command ⟨0x2000 ||| BitVec.ofNat 16 data, [acc]⟩ :=
  congrArg (fun w => Job.command ⟨w, [acc]⟩) (append_ofNat 0x20 h)

/-- CRC8_STEP takes two bytes. -/
theorem assembleCommand_crc8Step (data acc : Nat) : assembleCommand "CRC8_STEP".toList [.num data, .num acc] =
    if data < 256 ∧ acc < 256 then some [.command ⟨0x2000 ||| BitVec.ofNat 16 data, [BitVec.ofNat 8 acc]⟩]
    else none := by
  have hrow : assembleCommand "CRC8_STEP".toList [.num data, .num acc] =
      (byteOf data).bind (fun d => (byteOf acc).map (fun a => [issue (.crc8Step d a)])) := by
    simp only [assembleCommand]
    cases byteOf data <;> cases byteOf acc <;> simp
  rw [hrow]
  by_cases hdata : data < 256
  · rw [byteOf_of_lt hdata, Option.bind_some]
    by_cases hacc : acc < 256
    · rw [byteOf_of_lt hacc, if_pos ⟨hdata, hacc⟩, Option.map_some, issue_crc8Step hdata]
    · rw [byteOf_of_not_lt hacc, if_neg fun h => hacc h.2, Option.map_none]
  · rw [byteOf_of_not_lt hdata, if_neg fun h => hdata h.1, Option.bind_none]

theorem issue_crc8Compute {bs : List Byte} (h : bs.length ≤ 255) :
    issue (.crc8Compute bs) = .command ⟨0x2100 ||| BitVec.ofNat 16 bs.length, bs⟩ :=
  congrArg (fun w => Job.command ⟨w, bs⟩) (append_ofNat 0x21 (Nat.lt_succ_of_le h))

/-- CRC8_COMPUTE takes a list of at most 255 bytes. -/
theorem assembleCommand_crc8Compute (ns : List Nat) : assembleCommand "CRC8_COMPUTE".toList [.list ns] =
    if ns.length ≤ 255 ∧ ∀ n ∈ ns, n < 256 then
      some [.command ⟨0x2100 ||| BitVec.ofNat 16 ns.length, ns.map (BitVec.ofNat 8)⟩]
    else none := by
  have hrow : assembleCommand "CRC8_COMPUTE".toList [.list ns] = listCommand .crc8Compute ns := by
    simp [assembleCommand]
  rw [hrow, listCommand_eq (p := (· ≤ 255)) fun _ => rfl]
  refine ite_congr rfl (fun h => ?_) fun _ => rfl
  rw [issue_crc8Compute (by rw [List.length_map]; exact h.1), List.length_map]

theorem issue_crc8CheckRom (bs : List Byte) : issue (.crc8CheckRom bs) = .command ⟨0x2200, bs⟩ :=
  congrArg (fun w => Job.command ⟨w, bs⟩) (by decide : (0x22#8 ++ 0x00#8 : Word) = 0x2200)

/-- CRC8_CHECK_ROM takes a list of 8 bytes. -/
theorem assembleCommand_crc8CheckRom (ns : List Nat) : assembleCommand "CRC8_CHECK_ROM".toList [.list ns] =
    if ns.length = 8 ∧ ∀ n ∈ ns, n < 256 then some [.command ⟨0x2200, ns.map (BitVec.ofNat 8)⟩] else none := by
  have hrow : assembleCommand "CRC8_CHECK_ROM".toList [.list ns] = listCommand .crc8CheckRom ns := by
    simp [assembleCommand]
  rw [hrow, listCommand_eq (p := (· = 8)) fun _ => rfl, issue_crc8CheckRom]

theorem issue_crc8CheckScratchpad (bs : List Byte) : issue (.crc8CheckScratchpad bs) = .command ⟨0x2300, bs⟩ :=
  congrArg (fun w => Job.command ⟨w, bs⟩) (by decide : (0x23#8 ++ 0x00#8 : Word) = 0x2300)

/-- CRC8_CHECK_SCRATCHPAD takes a list of 9 bytes. -/
theorem assembleCommand_crc8CheckScratchpad (ns : List Nat) :
    assembleCommand "CRC8_CHECK_SCRATCHPAD".toList [.list ns] =
    if ns.length = 9 ∧ ∀ n ∈ ns, n < 256 then some [.command ⟨0x2300, ns.map (BitVec.ofNat 8)⟩] else none := by
  have hrow : assembleCommand "CRC8_CHECK_SCRATCHPAD".toList [.list ns] = listCommand .crc8CheckScratchpad ns := by
    simp [assembleCommand]
  rw [hrow, listCommand_eq (p := (· = 9)) fun _ => rfl, issue_crc8CheckScratchpad]

/-- Settles O60: row by row. -/
theorem assemblerChecksOperands : Obligations.AssemblerChecksOperands :=
  ⟨by refine ⟨?_, ?_, ?_, ?_, ?_, ?_⟩ <;> rfl, assembleCommand_writeBit,
    assembleCommand_writeByte, assembleCommand_crc8Step, assembleCommand_crc8Compute, assembleCommand_crc8CheckRom,
    assembleCommand_crc8CheckScratchpad⟩

end Sys2Proof.Machine
end

section
/-! PROOFS. What no step reads (R19, R26, R27, R111): states that differ in `REGION`, `HIST` and `FAULT` alone take the
same step, to states that differ in them alone. -/

namespace Sys2Proof.Machine

open Sys2Proof.Safety

/-! ### States that differ in what is not read -/

/-- `t` is `s` but for `REGION`, `HIST` and `FAULT`. -/
def Alike (s t : State) : Prop :=
  ∃ (r : Bool) (h : List Event) (fs : List FaultRecord), t = { s with region := r, hist := h, faults := fs }

/-- `f` does not read `REGION`, `HIST` and `FAULT`, but to change them. -/
def Blind (f : State → State) : Prop := ∀ s t, Alike s t → Alike (f s) (f t)

/-- It is enough to see that `f` changes the other registers alike. -/
theorem Blind.of_update {f : State → State}
    (hf : ∀ s r h fs, Alike (f s) (f { s with region := r, hist := h, faults := fs })) : Blind f := by
  rintro s _ ⟨r, h, fs, rfl⟩
  exact hf s r h fs

section Steps

variable {a : Nat} {w : Word} {p q r : Phase}

theorem blind_respond {st : Status} {v : State → Byte}
    (hv : ∀ s r h fs, v { s with region := r, hist := h, faults := fs } = v s) :
    Blind (fun s => s.respond a w st (v s)) := .of_update fun s r h fs => by
  simp only [State.respond_eq, hv]
  exact ⟨_, _, _, rfl⟩

/-- A sample, with a phase after it that may depend on the level. -/
theorem blind_sample {next : Bit → Phase} : Blind (fun s => (s.sample a).setPhase a (next s.level)) :=
  .of_update fun s r h fs => by
    simp only [State.sample_eq, State.useDraw_eq]
    split <;> exact ⟨_, _, _, rfl⟩

theorem blind_acquireStep : Blind (acquireStep a w p q r) := .of_update fun s rg h fs => by
  let t : State := { s with region := rg, hist := h, faults := fs }
  cases hc : s.contended a with
  | true =>
    rw [acquireStep_contended hc, acquireStep_contended (s := t) hc]
    exact ⟨_, _, _, rfl⟩
  | false =>
    by_cases hmax : s.count = s.cfg.maxCount
    · rw [acquireStep_overflow hc hmax, acquireStep_overflow (s := t) hc hmax]
      exact ⟨_, _, _, rfl⟩
    · rw [acquireStep_counted hc hmax, acquireStep_counted (s := t) hc hmax]
      exact ⟨_, _, _, rfl⟩

theorem blind_releaseStep : Blind (releaseStep a w p q r) := .of_update fun s rg h fs => by
  let t : State := { s with region := rg, hist := h, faults := fs }
  cases hc : s.contended a with
  | true =>
    rw [releaseStep_contended hc, releaseStep_contended (s := t) hc]
    exact ⟨_, _, _, rfl⟩
  | false =>
    by_cases hzero : s.count = 0
    · rw [releaseStep_underflow hc hzero, releaseStep_underflow (s := t) hc hzero]
      exact ⟨_, _, _, rfl⟩
    · rw [releaseStep_uncounted hc hzero, releaseStep_uncounted (s := t) hc hzero]
      exact ⟨_, _, _, rfl⟩

/-! ### The steps of the commands -/

theorem blind_bracketStep {β : Type} {wrap : BracketPc β → Phase} {first : β} {bodyStep : β → State → State}
    (hbody : ∀ p, Blind (bodyStep p)) (pc : BracketPc β) : Blind (bracketStep a w wrap first bodyStep pc) := by
  cases pc with
  | inc => exact blind_acquireStep
  | dec => exact blind_releaseStep
  | body p => exact hbody p
  | enter | exit => exact .of_update fun _ _ _ _ => ⟨_, _, _, rfl⟩
  | respond => exact blind_respond (v := fun _ => _) fun _ _ _ _ => rfl

theorem blind_nestedStep {σ : Type} {wrap : NestedPc σ → Phase} {first : σ} {slotStep : σ → State → State}
    {ovf next : Phase} (hslot : ∀ p, Blind (slotStep p)) (pc : NestedPc σ) :
    Blind (nestedStep a w wrap first slotStep ovf next pc) := by
  cases pc with
  | inc => exact blind_acquireStep
  | dec => exact blind_releaseStep
  | slot p => exact hslot p
  | enter | exit | ibd => exact .of_update fun _ _ _ _ => ⟨_, _, _, rfl⟩

theorem blind_writeSlotStep {bit : Bit} {wrap : WriteSlotPc → Phase} {done : Phase} (pc : WriteSlotPc) :
    Blind (writeSlotStep a bit wrap done pc) := by
  cases pc with
  | low | hold | up | rest => exact .of_update fun _ _ _ _ => ⟨_, _, _, rfl⟩

theorem blind_readSlotStep {b : Bit} {wrap : Bit → ReadSlotPc → Phase} {done : Bit → Phase} (pc : ReadSlotPc) :
    Blind (readSlotStep a b wrap done pc) := by
  cases pc with
  | sample => exact blind_sample (next := fun l => wrap l .rest)
  | low | hold | up | wait | rest => exact .of_update fun _ _ _ _ => ⟨_, _, _, rfl⟩

theorem blind_resetBodyStep (pc : ResetPc) : Blind (resetBodyStep a pc) := by
  cases pc with
  | poll i =>
    exact blind_sample
      (next := fun l => if l = 0 then resetPhase (.body .waitSample) else resetPhase (.body (.pollDelay i)))
  | waitSample =>
    exact blind_sample (next := fun l => if l = 0 then resetPhase (.body .waitDelay) else resetPhase (.dec .ok 0x01))
  | low | hold | up | settle | pollDelay | waitDelay => exact .of_update fun _ _ _ _ => ⟨_, _, _, rfl⟩

theorem blind_flightStep (f : Flight) : Blind (flightStep a f) := by
  cases f with
  | acquire pc =>
    cases pc with
    | inc => exact blind_acquireStep
    | enter => exact .of_update fun _ _ _ _ => ⟨_, _, _, rfl⟩
    | respond => exact blind_respond (v := fun _ => _) fun _ _ _ _ => rfl
  | release pc =>
    cases pc with
    | dec => exact blind_releaseStep
    | exit => exact .of_update fun _ _ _ _ => ⟨_, _, _, rfl⟩
    | respond => exact blind_respond (v := fun _ => _) fun _ _ _ _ => rfl
  | reset => exact blind_bracketStep blind_resetBodyStep _
  | writeBit => exact blind_bracketStep blind_writeSlotStep _
  | readBit => exact blind_bracketStep (fun p : ReadBitPc => blind_readSlotStep p.pc) _
  | writeByte => exact blind_bracketStep (fun p : WriteBytePc => blind_nestedStep blind_writeSlotStep p.pc) _
  | readByte => exact blind_bracketStep (fun p : ReadBytePc => blind_nestedStep blind_readSlotStep p.pc) _

theorem blind_atomic (i : Instr) : Blind (fun s => s.respond a w .ok (atomicValue i s)) :=
  blind_respond fun _ _ _ _ => by cases i <;> rfl

theorem blind_illegalStep {st : Status} {s t : State} (h : Alike s t) :
    Alike (illegalStep st w s) (illegalStep st w t) := by
  obtain ⟨r, h, fs, rfl⟩ := h
  exact blind_respond (v := fun _ => 0x00) (fun _ _ _ _ => rfl) (s.setErr st) _ ⟨r, h, fs, rfl⟩

end Steps

/-- A command takes the same step in states that are alike. -/
theorem exec_alike {i : Instr} {s s' t : State} (hst : Alike s t) (h : exec i s = .next s') :
    ∃ t', exec i t = .next t' ∧ Alike s' t' := by
  have hstep (f : Flight) := blind_flightStep (a := s.active) f s t hst
  have hatomic := blind_atomic (a := s.active) (w := i.word) i s t hst
  obtain ⟨r, hist, fs, rfl⟩ := hst
  obtain ⟨f, rfl, rfl, ⟨hidle, hstart⟩ | hf⟩ | ⟨hstart, hidle, -⟩ := exec_cases h
  · exact ⟨_, exec_start hstart hidle, hstep f⟩
  · exact ⟨_, exec_continue hf, hstep f⟩
  · cases hwf : i.wellFormed with
    | false => rw [illFormedCrcCommandRefused s i hwf] at h; cases h
    | true =>
      rw [exec_eq_runAtomic hstart hwf] at h ⊢
      rw [runAtomic_idle hidle] at h
      cases h
      exact ⟨_, runAtomic_idle hidle, hatomic⟩

/-! ### The steps of the machine -/

/-- The same next step, in states that are alike. -/
inductive FetchedAlike : Fetched → Fetched → Prop where
  | run {i : Instr} {s t : State} (h : Alike s t) : FetchedAlike (.run i s) (.run i t)
  | illegalOpcode {w : Word} {s t : State} (h : Alike s t) : FetchedAlike (.illegalOpcode w s) (.illegalOpcode w t)
  | illegalOperand {w : Word} {s t : State} (h : Alike s t) : FetchedAlike (.illegalOperand w s) (.illegalOperand w t)
  | settled {s t : State} (h : Alike s t) : FetchedAlike (.settled s) (.settled t)
  | refuse (r : Refusal) : FetchedAlike (.refuse r) (.refuse r)

theorem takeFetched_alike {f g : Fetched} {s' : State} (hfg : FetchedAlike f g) (h : takeFetched f = .next s') :
    ∃ t', takeFetched g = .next t' ∧ Alike s' t' := by
  cases hfg with
  | run hst => exact exec_alike hst h
  | illegalOpcode hst | illegalOperand hst => cases h; exact ⟨_, rfl, blind_illegalStep hst⟩
  | settled hst => cases h; exact ⟨_, rfl, hst⟩
  | refuse => cases h

section Fetch

variable {s t : State}

theorem fetchIssue_alike (c : Command) (h : Alike s t) : FetchedAlike (fetchIssue c s) (fetchIssue c t) := by
  unfold fetchIssue
  split
  · exact .run h
  · exact .illegalOpcode h
  · exact .illegalOperand h
  · exact .refuse _

theorem fetchAgent_alike (a : Nat) (h : Alike s t) : FetchedAlike (fetchAgent a s) (fetchAgent a t) := by
  have hagents : t.agents = s.agents := by obtain ⟨_, _, _, rfl⟩ := h; rfl
  have hjobs : Alike (s.setJobs a []) (t.setJobs a []) := by obtain ⟨_, _, _, rfl⟩ := h; exact ⟨_, _, _, rfl⟩
  have htake (jobs : List Job) : Alike (s.takeJob a jobs) (t.takeJob a jobs) := by
    obtain ⟨_, _, _, rfl⟩ := h; exact ⟨_, _, _, rfl⟩
  unfold fetchAgent
  rw [hagents]
  split
  · exact .settled h
  · split
    · exact .settled h
    · exact .run h
    · split
      · exact .settled hjobs
      · exact fetchIssue_alike _ (htake _)

theorem fetchReset_alike (h : Alike s t) : FetchedAlike (fetchReset s) (fetchReset t) := by
  obtain ⟨_, _, _, rfl⟩ := h
  unfold fetchReset
  split
  · exact .settled ⟨_, _, _, rfl⟩
  · exact .refuse _

theorem blind_useTurn : Blind State.useTurn := .of_update fun s r h fs => by
  cases hturns : s.turns <;> simp only [State.useTurn, hturns] <;> exact ⟨_, _, _, rfl⟩

theorem fetch_alike (h : Alike s t) : FetchedAlike (fetch s) (fetch t) := by
  have hturn := blind_useTurn s t h
  have hactive (a : Nat) : Alike (s.useTurn.activate a) (t.useTurn.activate a) := by
    obtain ⟨_, _, _, heq⟩ := hturn; rw [heq]; exact ⟨_, _, _, rfl⟩
  have hcfg : t.cfg = s.cfg := by obtain ⟨_, _, _, rfl⟩ := h; rfl
  have hnext : t.nextTurn = s.nextTurn := by obtain ⟨_, _, _, rfl⟩ := h; rfl
  unfold fetch
  rw [hcfg, hnext]
  split
  · split
    · exact fetchReset_alike hturn
    · exact fetchAgent_alike _ (hactive _)
  · exact .refuse _

end Fetch

/-- Settles O50: what is fetched is alike, and the step of it too. -/
theorem regionHistAndFaultAreNeverRead : Obligations.RegionHistAndFaultAreNeverRead := by
  intro s s' r h fs hstep
  obtain ⟨t', htake, r', h', fs', rfl⟩ := takeFetched_alike (fetch_alike ⟨r, h, fs, rfl⟩) hstep
  exact ⟨r', h', fs', htake⟩

end Sys2Proof.Machine
end
